-- ==== Sys2Proof/Word.lean ====
section
/-! DEFINITION. The plain types of the hardware: bytes, command words, coordinates, and the numbers that name
chips, digit registers and segments (`00_scope.md` R3, R5). -/

namespace Sys2Proof

/-- A digit register, a bus register byte or a bus value byte (`10_state.md` R22, `20_memory.md` R54). -/
abbrev Byte := BitVec 8

/-- A command word (`30_encoding.md` R80) or a bus word (R87): 16 bits. -/
abbrev Word := BitVec 16

/-- A pixel coordinate, 0..15 (`00_scope.md` R3): no other value can be formed (`40_addressing.md` R103). -/
abbrev Coord := Fin 16

/-- A chip's logical index, 0..3 (`00_scope.md` R3). -/
abbrev ChipIdx := Fin 4

/-- A digit register's index k, 0..7; its bus address is k+1 (`00_scope.md` R3, `20_memory.md` R53). -/
abbrev DigitIdx := Fin 8

/-- A segment, the bit number in a digit register, 0..7 (`00_scope.md` R3). -/
abbrev SegIdx := Fin 8

/-- The four chips in logical order. -/
def chipIdxs : List ChipIdx := [0, 1, 2, 3]

/-- The eight digit registers in increasing order. -/
def digitIdxs : List DigitIdx := [0, 1, 2, 3, 4, 5, 6, 7]

/-- An offset (dx, dy) inside a 3x5 glyph cell, dx 0..2, dy 0..4 (`43_glyph.md` R142). -/
abbrev Offset := Fin 3 × Fin 5

/-- The corner (lowest x, lowest y) of a glyph cell that fits the display: x 0..13, y 0..11
(`20_memory.md` R63, `43_glyph.md` R143). -/
structure CellPos where
  x : Fin 14
  y : Fin 12
  deriving DecidableEq, Repr, Inhabited

/-- The four chips' words of one frame by logical index: the register byte and the value byte for each chip
(`20_memory.md` R61). -/
abbrev FrameWords := ChipIdx → Byte × Byte

end Sys2Proof
end

