-- ==== Sys2Proof/Syntax.lean ====
section
/-! DEFINITION. The eleven commands (`30_encoding.md` R82), one constructor per row of `opcode_table.json`, and the
fault reasons (`60_exceptions.md` R182). -/

namespace Sys2Proof

/-- The event that STEPADJ carries (`30_encoding.md` R83): codes 0 none, 1 increment, 2 decrement, 3 confirm. -/
inductive Event where
  | none
  | inc
  | dec
  | confirm
  deriving DecidableEq, Repr

/-- A command with its operands (`30_encoding.md` R82, R83). POLLAUTO takes its operands from ports, not from the
word. -/
inductive Instr where
  | setpx (x y : Coord) (b : Bool)
  | testpx (x y : Coord)
  | setdig (x y : Coord) (d : Fin 16)
  | clear
  | isempty
  | flush
  | beginadj
  | stepadj (ev : Event)
  | pollauto
  | settest (b : Bool)
  | dump
  deriving DecidableEq, Repr

/-- Why a command word is out of contract (`60_exceptions.md` R182). A label of the model: the hardware records only
the bit FAULT. -/
inductive FaultReason where
  /-- Raised by command decode: op is 0x0 or 0xC..0xF. -/
  | reservedOpcode
  /-- Raised by command decode: a must-be-zero bit is 1. -/
  | nonZeroField
  /-- Raised by SETDIG: d > 9. -/
  | digitValue
  /-- Raised by SETDIG: d ≤ 9 and (x > 13 or y > 11). -/
  | cellRange
  deriving DecidableEq, Repr

/-- The number of a reason (`60_exceptions.md` R182). -/
def FaultReason.code : FaultReason → Nat
  | .reservedOpcode => 1
  | .nonZeroField => 2
  | .digitValue => 3
  | .cellRange => 4

end Sys2Proof
end

