-- ==== Sys2Proof/WellFormed.lean ====
section
/-! DEFINITION. Which commands are well formed: the operand checks of `30_encoding.md` R85 (3) and (4). Coordinates and
small operands have four bits by type, so these are the only checks a command as syntax can fail; what the must-be-zero
bits exclude is no term of `Instr`. -/

namespace Sys2Proof

/-- The digit value is one of 0..9 (`30_encoding.md` R85 (3)). -/
def Instr.digitOk : Instr → Bool
  | .setdig _ _ d => decide (d.val ≤ 9)
  | .setpx _ _ _ => true
  | .testpx _ _ => true
  | .clear => true
  | .isempty => true
  | .flush => true
  | .beginadj => true
  | .stepadj _ => true
  | .pollauto => true
  | .settest _ => true
  | .dump => true

/-- The glyph cell fits the display (`30_encoding.md` R85 (4)). -/
def Instr.cellOk : Instr → Bool
  | .setdig x y _ => decide (x.val ≤ 13) && decide (y.val ≤ 11)
  | .setpx _ _ _ => true
  | .testpx _ _ => true
  | .clear => true
  | .isempty => true
  | .flush => true
  | .beginadj => true
  | .stepadj _ => true
  | .pollauto => true
  | .settest _ => true
  | .dump => true

/-- A well-formed command: one that `30_encoding.md` R85 gives no fault. -/
def Instr.wf (i : Instr) : Bool := i.digitOk && i.cellOk

end Sys2Proof
end

