-- ==== Sys2Proof/Decode.lean ====
section
/-! DEFINITION. The decoder, total on command words, rejecting by name (`30_encoding.md` R81 to R85), and the encoder
written from the same table (R82). -/

namespace Sys2Proof

/-- Bits 15:12, the operation code (`30_encoding.md` R81). -/
def opField (w : Word) : BitVec 4 := w.extractLsb' 12 4

/-- Bits 11:8 (`30_encoding.md` R81). -/
def xField (w : Word) : BitVec 4 := w.extractLsb' 8 4

/-- Bits 7:4 (`30_encoding.md` R81). -/
def yField (w : Word) : BitVec 4 := w.extractLsb' 4 4

/-- Bits 3:0 (`30_encoding.md` R81). -/
def vField (w : Word) : BitVec 4 := w.extractLsb' 0 4

/-- A four-bit field as the number it stands for (`30_encoding.md` R83: unsigned, no scaling). -/
def fieldNat (f : BitVec 4) : Fin 16 := f.toFin

/-- The Boolean operand v[0] (`30_encoding.md` R83). -/
def boolOperand (w : Word) : Bool := w.getLsbD 0

/-- The event operand v[1:0] (`30_encoding.md` R83). -/
def eventOperand (w : Word) : Event :=
  match w.getLsbD 1, w.getLsbD 0 with
  | false, false => .none
  | false, true => .inc
  | true, false => .dec
  | true, true => .confirm

/-- A row of the command table (`30_encoding.md` R82): the match word, the mask, and the command its fields make. -/
structure OpRow where
  matchBits : Word
  mask : Word
  build : Word → Instr

/-- The command table (`30_encoding.md` R82, `opcode_table.json`). -/
def opTable : List OpRow :=
  [ ⟨0x1000, 0xF00E, fun w => .setpx (fieldNat (xField w)) (fieldNat (yField w)) (boolOperand w)⟩,
    ⟨0x2000, 0xF00F, fun w => .testpx (fieldNat (xField w)) (fieldNat (yField w))⟩,
    ⟨0x3000, 0xF000, fun w => .setdig (fieldNat (xField w)) (fieldNat (yField w)) (fieldNat (vField w))⟩,
    ⟨0x4000, 0xFFFF, fun _ => .clear⟩,
    ⟨0x5000, 0xFFFF, fun _ => .isempty⟩,
    ⟨0x6000, 0xFFFF, fun _ => .flush⟩,
    ⟨0x7000, 0xFFFF, fun _ => .beginadj⟩,
    ⟨0x8000, 0xFFFC, fun w => .stepadj (eventOperand w)⟩,
    ⟨0x9000, 0xFFFF, fun _ => .pollauto⟩,
    ⟨0xA000, 0xFFFE, fun w => .settest (boolOperand w)⟩,
    ⟨0xB000, 0xFFFF, fun _ => .dump⟩ ]

/-- The command a word stands for, or the reason it is none, checked in the order of `30_encoding.md` R85: first
whether its op selects a row, then whether its must-be-zero bits are 0. SETDIG matches on op alone; its operands are
checked when it runs. -/
def decode (w : Word) : Except FaultReason Instr :=
  match opTable.find? (fun r => opField r.matchBits == opField w) with
  | none => .error .reservedOpcode
  | some r => if w &&& r.mask = r.matchBits then .ok (r.build w) else .error .nonZeroField

/-- The word with the four given fields (`30_encoding.md` R81). -/
def formatC (op x y v : BitVec 4) : Word := op ++ x ++ y ++ v

/-- A number 0..15 as a field. -/
def natField (n : Fin 16) : BitVec 4 := BitVec.ofFin n

/-- A Boolean as the operand field 000b. -/
def boolField (b : Bool) : BitVec 4 := if b then 1 else 0

/-- An event as the operand field 00ee (`30_encoding.md` R83). -/
def eventField : Event → BitVec 4
  | .none => 0
  | .inc => 1
  | .dec => 2
  | .confirm => 3

/-- The word of a command (`30_encoding.md` R82). -/
def encode : Instr → Word
  | .setpx x y b => formatC 0x1 (natField x) (natField y) (boolField b)
  | .testpx x y => formatC 0x2 (natField x) (natField y) 0
  | .setdig x y d => formatC 0x3 (natField x) (natField y) (natField d)
  | .clear => formatC 0x4 0 0 0
  | .isempty => formatC 0x5 0 0 0
  | .flush => formatC 0x6 0 0 0
  | .beginadj => formatC 0x7 0 0 0
  | .stepadj ev => formatC 0x8 0 0 (eventField ev)
  | .pollauto => formatC 0x9 0 0 0
  | .settest b => formatC 0xA 0 0 (boolField b)
  | .dump => formatC 0xB 0 0 0

/-- The instruction the decoder reads from the low `nbits` bits of `w`, numbered as `opcode_table.json` numbers them: a
command is one 16-bit word (`30_encoding.md` R80), so anything wider is no command. -/
def decodeTableWord (nbits w : Nat) : Option Instr :=
  let v := w % 2 ^ nbits
  if v < 2 ^ 16 then
    match decode (BitVec.ofNat 16 v) with
    | .ok i => some i
    | .error _ => none
  else none

end Sys2Proof
end

