-- ==== Sys2Proof/Machine/Parts.lean ====
section
/-! DEFINITION. The registers of a driver chip (`60_exceptions.md` R191) and of the flush sequencer
(`10_state.md` R36). They stand before `Config` because two of its free values are values of these types. -/

namespace Sys2Proof.Machine

/-- One driver chip as the bus sees it (`60_exceptions.md` R191). `dig` holds DIG[c][1..8], the register of bus
address k+1 at index k. -/
@[ext]
structure Chip where
  /-- The 16-bit shift register SR[c]. -/
  sr : BitVec 16
  /-- The digit registers DIG[c][1..8]. -/
  dig : Vector Byte 8
  /-- DECODE[c], the value byte last written. -/
  decode : Byte
  /-- SCANLIMIT[c], the value byte last written. -/
  scanLimit : Byte
  /-- SHUTDOWN[c], the value byte last written. -/
  shutdown : Byte
  /-- TEST[c], the value byte last written. -/
  test : Byte
  /-- INTENSITY[c], four bits. -/
  intensity : BitVec 4
  deriving DecidableEq, Repr, Inhabited

/-- The daisy chain, chip 0 nearest the bus master (`60_exceptions.md` R190). -/
abbrev Chain := Vector Chip 4

/-- The flush sequencer (`10_state.md` R36), with the bounds that rule gives each register. -/
structure FlushSeq where
  /-- CNT[c], 0..8. -/
  cnt : Vector (Fin 9) 4
  /-- MAXCOUNT, 0..8. -/
  maxCount : Fin 9
  /-- The frame index f, 0..7. -/
  frame : Fin 8
  /-- The position in CHAIN_ORDER, 0..3. -/
  pos : Fin 4
  /-- NEXT[c], 0..8. -/
  next : Vector (Fin 9) 4
  deriving DecidableEq, Repr, Inhabited

end Sys2Proof.Machine
end

