-- ==== Sys2Proof/Config.lean ====
section
/-! DEFINITION. What the implementation fixes: the parameters of `00_scope.md` R4 as the fields of `Config`, and the model's
free values (constants without a body). Every operation that uses a parameter takes a `Config`, so that claims can be stated
for every configuration; the machine itself runs with `Config.actual` (`Machine/Parameters.lean`, where the values stand),
as the host's fixed names take no configuration. -/

namespace Sys2Proof

/-- The pair SENSOR_LO, SENSOR_HI of unequal integers (`00_scope.md` R4): the low end, whether the map falls, and
|SENSOR_HI - SENSOR_LO| - 1. Unequal ends by construction (U14 excludes equal ones). -/
structure SensorRange where
  lo : Int
  falling : Bool
  widthPred : Nat
  deriving DecidableEq, Repr, Inhabited

/-- The parameters of `00_scope.md` R4 (with MANUAL_PUSH of `44_brightness.md` R156). -/
structure Config where
  regNoop : Byte
  regDecode : Byte
  regIntensity : Byte
  regScanlimit : Byte
  regShutdown : Byte
  regTest : Byte
  noopVal : Byte
  decodeOffVal : Byte
  testOffVal : Byte
  testOnVal : Byte
  shutdownRunVal : Byte
  defaultIntensity : BitVec 4
  /-- GLYPH[0..9], bit 0 segment A .. bit 6 segment G (`43_glyph.md` R141). -/
  glyph : Vector (BitVec 7) 10
  /-- SEG_OFFS[A..G], three offsets each (`43_glyph.md` R142). -/
  segOffs : Vector (Vector Offset 3) 7
  /-- MARKERS, a set of coordinates (`44_brightness.md` R152). -/
  markers : List (Coord × Coord)
  levelTensPos : CellPos
  levelUnitsPos : CellPos
  /-- AUTO_INTERVAL in ticks, below 2^TICK_W. -/
  autoInterval : Nat
  autoThreshold : Nat
  sensorRange : SensorRange
  /-- SENSOR_W, the width of `sensor_in` and LAST_READING. -/
  sensorW : Nat
  /-- TICK_W, the width of `tick_in` and LAST_UPDATE, the modulus of Elapsed. -/
  tickW : Nat
  manualPush : Bool
  deriving DecidableEq, Repr, Inhabited

/-- AUTO_INTERVAL: OPEN in the spec (`00_scope.md` R4, D20). Free value, no body (log 9); below 2^32, the default TICK_W. -/
opaque Config.openInterval : BitVec 32

/-- AUTO_THRESHOLD: OPEN in the spec (`00_scope.md` R4, D20). Free value, no body (log 9). -/
opaque Config.openThreshold : Nat

/-- SENSOR_LO and SENSOR_HI: OPEN in the spec (`00_scope.md` R4, D19). Free value, no body (log 9). -/
opaque Config.openSensorRange : SensorRange

/-- Free value, no body: what the dead flush sequencer holds after a FLUSH, the n-th drawn (`10_state.md` R36,
U17; log 6). -/
opaque Config.deadSequencer : Nat → Machine.FlushSeq

/-- Free value, no body: what ser_data holds once a frame's strobe is over, the n-th drawn. The spec puts bits on the line and
gives it a reset value, and states no other (`20_memory.md` R58, D23; log 20). -/
opaque Config.restingData : Nat → Bool

/-- Free value, no body: what a chip's registers hold after it latched a register address that has no meaning, a
function of what they held (`60_exceptions.md` R192, U10; log 7). -/
opaque Config.meaninglessLatch : Machine.Chip → Machine.Chip

end Sys2Proof
end

