-- ==== Sys2Proof/Machine/Parameters.lean ====
section
/-! DEFINITION. The constants of `00_scope.md` R3, the constraints on the parameters of R4, and their values: the machine's
configuration and the reference configuration of the test vectors. -/

namespace Sys2Proof

/-- CHAIN_ORDER: the logical chip of the 1st, 2nd, 3rd and 4th word of a frame (`00_scope.md` R3,
`20_memory.md` R55). -/
def chainOrder : Vector ChipIdx 4 := #v[3, 2, 1, 0]

/-- SCAN_LIMIT_VAL (`00_scope.md` R3). -/
def scanLimitVal : Byte := 0x07

/-- SENSOR_HI - SENSOR_LO, never 0. -/
def SensorRange.span (r : SensorRange) : Int :=
  if r.falling then -((r.widthPred : Int) + 1) else (r.widthPred : Int) + 1

/-- SENSOR_HI. -/
def SensorRange.hi (r : SensorRange) : Int := r.lo + r.span

/-- The range with the given ends; meant for unequal ends. -/
def SensorRange.ofEnds (lo hi : Int) : SensorRange :=
  { lo := lo, falling := decide (hi < lo), widthPred := (hi - lo).natAbs - 1 }

/-- The low four bits of a register byte, by which a chip selects a register (`60_exceptions.md` R192). -/
def lowNibble (b : Byte) : BitVec 4 := b.extractLsb' 0 4

/-- The low nibbles of the six REG_* codes. -/
def Config.regNibbles (c : Config) : List (BitVec 4) :=
  [c.regNoop, c.regDecode, c.regIntensity, c.regScanlimit, c.regShutdown, c.regTest].map lowNibble

/-- The constraints of `00_scope.md` R4 that the field types do not carry: the codes pairwise distinct and distinct from the
digit addresses 1..8 in the low nibble, the two test values distinct, both widths at least 1, AUTO_INTERVAL below
2^TICK_W. -/
def Config.wf (c : Config) : Bool :=
  decide c.regNibbles.Nodup && c.regNibbles.all (fun n => n.toNat = 0 || 8 < n.toNat) &&
    decide (c.testOffVal ≠ c.testOnVal) && decide (1 ≤ c.sensorW) && decide (1 ≤ c.tickW) &&
    decide (c.autoInterval < 2 ^ c.tickW)

/-- The configuration of the machine: the spec's defaults (`00_scope.md` R4, `43_glyph.md` R141, R142), and the OPEN
parameters left free. DESIGN CHOICE: the defaults (log 8); the OPEN parameters have no value (log 9). -/
def Config.actual : Config where
  regNoop := 0x00
  regDecode := 0x09
  regIntensity := 0x0A
  regScanlimit := 0x0B
  regShutdown := 0x0C
  regTest := 0x0F
  noopVal := 0x00
  decodeOffVal := 0x00
  testOffVal := 0x00
  testOnVal := 0x01
  shutdownRunVal := 0x01
  defaultIntensity := 8
  glyph := #v[0x3F, 0x06, 0x5B, 0x4F, 0x66, 0x6D, 0x7D, 0x07, 0x7F, 0x6F]
  segOffs := #v[
    #v[(0, 0), (1, 0), (2, 0)],
    #v[(2, 0), (2, 1), (2, 2)],
    #v[(2, 2), (2, 3), (2, 4)],
    #v[(0, 4), (1, 4), (2, 4)],
    #v[(0, 2), (0, 3), (0, 4)],
    #v[(0, 0), (0, 1), (0, 2)],
    #v[(0, 2), (1, 2), (2, 2)]]
  markers := [(0, 0), (15, 0), (0, 15), (15, 15)]
  levelTensPos := { x := 4, y := 5 }
  levelUnitsPos := { x := 8, y := 5 }
  autoInterval := Config.openInterval.toNat
  autoThreshold := Config.openThreshold
  sensorRange := Config.openSensorRange
  sensorW := 10
  tickW := 32
  manualPush := true

/-- The reference configuration of the test vectors (`00_scope.md` R4): the defaults, AUTO_INTERVAL = 1000,
AUTO_THRESHOLD = 10, SENSOR_LO = 0, SENSOR_HI = 1023. -/
def Config.reference : Config :=
  { Config.actual with
    autoInterval := 1000
    autoThreshold := 10
    sensorRange := SensorRange.ofEnds 0 1023 }

end Sys2Proof
end

