-- ==== Sys2Proof/Machine/State.lean ====
section
/-! DEFINITION. The state of the machine as plain data (`10_state.md`, `60_exceptions.md` R191), its field updates, and
its value after reset (`10_state.md` R38). INVENTORY.md lists every field with its rule and reset value. -/

namespace Sys2Proof.Machine

/-- A register file of 4 chips x 8 digit registers x 8 bits: FB or SB (`10_state.md` R22, R23). -/
abbrev Buffer := Vector (Vector Byte 8) 4

/-- Every register 0x00. -/
def zeroBuffer : Buffer := Vector.replicate 4 (Vector.replicate 8 0)

/-- PHASE (`10_state.md` R26). -/
inductive Phase where
  | boot
  | run
  deriving DecidableEq, Repr

/-- SESSION (`10_state.md` R28). -/
inductive Session where
  | idle
  | adjusting
  deriving DecidableEq, Repr

/-- LEVEL: 0..15 or AUTO (`10_state.md` R30). DESIGN CHOICE: a sum type, which D30 allows; `Level.code` is the 5-bit
register (log 11). -/
inductive Level where
  | manual (n : BitVec 4)
  | auto
  deriving DecidableEq, Repr

/-- The 5-bit encoding of LEVEL, AUTO = 16 (`10_state.md` R30). -/
def Level.code : Level → BitVec 5
  | .manual n => n.setWidth 5
  | .auto => 16

/-- One event on the serial bus (`00_scope.md` R7, `20_memory.md` R58, R60). -/
inductive BusEvent where
  | bit (b : Bool)
  | strobeLow
  | strobeHigh
  deriving DecidableEq, Repr

/-- The three bus lines (`20_memory.md` R56, `10_state.md` R35). -/
structure Wires where
  serData : Bool
  serClk : Bool
  serLoad : Bool
  deriving DecidableEq, Repr

/-- The input ports as the host drives them (`10_state.md` R35). The sensor and tick inputs are numbers, because their widths
are parameters: what is on the port is the low SENSOR_W or TICK_W bits (log 10). -/
structure HostPins where
  rst : Bool
  cmdValid : Bool
  cmd : Word
  sensorIn : Nat
  tickIn : Nat
  deriving DecidableEq, Repr

/-- Why a step stops with a fault: never. `raise Fault` (`60_exceptions.md` R183) is a next state with FAULT = 1, so
the type has no constructor (log 14). -/
inductive Fault where
  deriving DecidableEq, Repr

/-- Why a step has no meaning. -/
inductive Refusal where
  /-- Raised by an arm of `exec` whose instruction has no meaning in the model. Safe. No arm raises it: every command of
  the table has its meaning. -/
  | notModelled (mnemonic : String)
  deriving DecidableEq, Repr

/-- The whole machine: the block, the pins the host drives, the chain of chips, and the model's own observations. -/
@[ext]
structure State where
  /-- FB, the FrameBuffer (`10_state.md` R22). -/
  fb : Buffer
  /-- SB, the ShadowBuffer (`10_state.md` R23). -/
  sb : Buffer
  /-- PHASE (`10_state.md` R26). -/
  phase : Phase
  /-- SESSION (`10_state.md` R28). -/
  session : Session
  /-- FAULT, and the `fault` port (`10_state.md` R29, R35). -/
  fault : Bool
  /-- LEVEL (`10_state.md` R30). -/
  level : Level
  /-- LAST_READING, 0 .. 2^SENSOR_W - 1 (`10_state.md` R31): the range is part of `Inv`. -/
  lastReading : Nat
  /-- LAST_UPDATE, 0 .. 2^TICK_W - 1 (`10_state.md` R32): the range is part of `Inv`. -/
  lastUpdate : Nat
  /-- The flush sequencer (`10_state.md` R36). -/
  seq : FlushSeq
  /-- The bus lines (`10_state.md` R35). -/
  wires : Wires
  /-- rsp_valid and rsp: none is rsp_valid = 0 (`10_state.md` R35; log 16). -/
  response : Option (BitVec 2)
  /-- The input ports now (`10_state.md` R35). -/
  pins : HostPins
  /-- The model's own field: what the host will drive in later steps (`10_state.md` R20; log 2). -/
  hostPlan : List HostPins
  /-- The chain of driver chips (`60_exceptions.md` R190, R191). -/
  chain : Chain
  /-- The bus trace since reset, oldest first: the observation of `00_scope.md` R7, which no meaning reads (log 12). -/
  trace : List BusEvent
  /-- The model's own field: the label of the fault that set FAULT (`60_exceptions.md` R182; log 13). -/
  faultReason : Option FaultReason
  /-- The model's own field: how many free values have been drawn (log 6, log 20). -/
  freeCtr : Nat
  deriving DecidableEq, Repr

/-- FB replaced. -/
def State.setFb (s : State) (b : Buffer) : State := { s with fb := b }

/-- SB replaced. -/
def State.setSb (s : State) (b : Buffer) : State := { s with sb := b }

/-- PHASE replaced. -/
def State.setPhase (s : State) (p : Phase) : State := { s with phase := p }

/-- SESSION replaced. -/
def State.setSession (s : State) (x : Session) : State := { s with session := x }

/-- FAULT set, with the model's label of the reason. -/
def State.latchFault (s : State) (r : FaultReason) : State := { s with fault := true, faultReason := some r }

/-- LEVEL replaced. -/
def State.setLevel (s : State) (l : Level) : State := { s with level := l }

/-- LAST_READING and LAST_UPDATE replaced. -/
def State.recordAuto (s : State) (r t : Nat) : State :=
  { s with lastReading := r, lastUpdate := t }

/-- The flush sequencer replaced. -/
def State.setSeq (s : State) (q : FlushSeq) : State := { s with seq := q }

/-- The response port replaced. -/
def State.setResponse (s : State) (r : Option (BitVec 2)) : State := { s with response := r }

/-- The host's pins and its later choices replaced. -/
def State.setHost (s : State) (p : HostPins) (l : List HostPins) : State := { s with pins := p, hostPlan := l }

/-- Bus lines, chain, trace and the counter of free values replaced together. -/
def State.setBus (s : State) (w : Wires) (c : Chain) (t : List BusEvent) (n : Nat) : State :=
  { s with wires := w, chain := c, trace := t, freeCtr := n }

/-- The bus lines replaced. -/
def State.setWires (s : State) (w : Wires) : State := { s with wires := w }

/-- The counter of free values advanced. -/
def State.bumpFree (s : State) : State := { s with freeCtr := s.freeCtr + 1 }

/-- The bus lines at their reset levels: data and clock low, strobe high (`10_state.md` R38). -/
def idleWires : Wires := { serData := false, serClk := false, serLoad := true }

/-- The host drives nothing. DESIGN CHOICE for the pins at reset (log 15). -/
def idlePins : HostPins := { rst := false, cmdValid := false, cmd := 0, sensorIn := 0, tickIn := 0 }

/-- The flush sequencer at reset, which the spec leaves unspecified (`10_state.md` R38). DESIGN CHOICE: zeros (log 5). -/
def resetSeq : FlushSeq :=
  { cnt := Vector.replicate 4 0, maxCount := 0, frame := 0, pos := 0, next := Vector.replicate 4 0 }

/-- A driver chip when the machine starts, which the spec leaves unspecified (`60_exceptions.md` R195). DESIGN CHOICE:
zeros (log 4). -/
def resetChip : Chip :=
  { sr := 0, dig := Vector.replicate 8 0, decode := 0, scanLimit := 0, shutdown := 0, test := 0, intensity := 0 }

/-- The machine right after reset, for a configuration (`10_state.md` R38). -/
def State.resetOn (cfg : Config) : State where
  fb := zeroBuffer
  sb := zeroBuffer
  phase := .boot
  session := .idle
  fault := false
  level := .manual cfg.defaultIntensity
  lastReading := 0
  lastUpdate := 0
  seq := resetSeq
  wires := idleWires
  response := none
  pins := idlePins
  hostPlan := []
  chain := Vector.replicate 4 resetChip
  trace := []
  faultReason := none
  freeCtr := 0

/-- The machine right after reset (`10_state.md` R38), on its own configuration. -/
def State.reset : State := State.resetOn Config.actual

end Sys2Proof.Machine
end

