-- ==== Sys2Proof/Machine/Operands.lean ====
section
/-! DEFINITION. What commands compute from their operands: the pixel mapper (`40_addressing.md`), the pixels of a glyph
cell (`43_glyph.md`), level arithmetic and the sensor map (`44_brightness.md`). Pure functions of their arguments. -/

namespace Sys2Proof.Machine

/-- One bit of FB or SB: a chip, a digit register and a segment (`20_memory.md` R50). -/
structure Cell where
  chip : ChipIdx
  digit : DigitIdx
  segment : SegIdx
  deriving DecidableEq, Repr

/-- `toCell` (`40_addressing.md` R100). -/
def toCell (x y : Coord) : Cell where
  chip := ⟨x.val / 8 + 2 * (y.val / 8), by omega⟩
  digit := ⟨y.val % 8, by omega⟩
  segment := ⟨7 - x.val % 8, by omega⟩

/-- `fromCell`, the inverse (`40_addressing.md` R101). -/
def fromCell (c : Cell) : Coord × Coord :=
  (⟨8 * (c.chip.val % 2) + (7 - c.segment.val), by omega⟩, ⟨8 * (c.chip.val / 2) + c.digit.val, by omega⟩)

/-- `toCell` on wider numbers: no value outside 0..15 (`40_addressing.md` R103). -/
def toCellNat (x y : Nat) : Option Cell :=
  if h : x < 16 ∧ y < 16 then some (toCell ⟨x, h.1⟩ ⟨y, h.2⟩) else none

/-- The pixel at an offset of a glyph cell; it is on the display because the cell fits (`43_glyph.md` R142). -/
def cellPixel (p : CellPos) (o : Offset) : Coord × Coord :=
  (⟨p.x.val + o.1.val, by omega⟩, ⟨p.y.val + o.2.val, by omega⟩)

/-- The fifteen offsets of a glyph cell, row by row (`43_glyph.md` R143, ClearCell). -/
def cellOffsets : List Offset :=
  ([0, 1, 2, 3, 4] : List (Fin 5)).flatMap fun dy => ([0, 1, 2] : List (Fin 3)).map fun dx => (dx, dy)

/-- The offsets that a digit lights, segment by segment: those of each segment whose GLYPH bit is 1
(`43_glyph.md` R143, DrawDigit). -/
def glyphOffsets (cfg : Config) (d : Fin 10) : List Offset :=
  ([0, 1, 2, 3, 4, 5, 6] : List (Fin 7)).flatMap fun i =>
    if (cfg.glyph.get d).getLsbD i.val then (cfg.segOffs.get i).toList else []

/-- `Inc` (`44_brightness.md` R154). -/
def Level.up : Level → Level
  | .auto => .manual 0
  | .manual n => if n.toNat = 15 then .auto else .manual (n + 1)

/-- `Dec` (`44_brightness.md` R155). -/
def Level.down : Level → Level
  | .auto => .manual 15
  | .manual n => if n.toNat = 0 then .auto else .manual (n - 1)

/-- The tens digit of a manual level, 0 or 1 (`44_brightness.md` R151). -/
def tensDigit (n : BitVec 4) : Fin 10 := ⟨n.toNat / 10, by omega⟩

/-- The units digit of a manual level (`44_brightness.md` R151). -/
def unitsDigit (n : BitVec 4) : Fin 10 := ⟨n.toNat % 10, by omega⟩

/-- `SensorMap` on mathematical integers, division truncating toward zero (`44_brightness.md` R161, `00_scope.md` R5):
clamped into 0..15. -/
def sensorMapInt (r : SensorRange) (reading : Int) : Int :=
  min 15 (max 0 (((reading - r.lo) * 15).tdiv (r.hi - r.lo)))

/-- `SensorMap` as the four-bit intensity (`44_brightness.md` R160, R161). -/
def sensorMap (cfg : Config) (reading : Nat) : BitVec 4 :=
  BitVec.ofNat 4 (sensorMapInt cfg.sensorRange (reading : Int)).toNat

/-- `reading`: the SENSOR_W bits on `sensor_in` (`10_state.md` R35, `44_brightness.md` R160). -/
def State.readingNow (cfg : Config) (s : State) : Nat := s.pins.sensorIn % 2 ^ cfg.sensorW

/-- `now`: the TICK_W bits on `tick_in` (`10_state.md` R35, `44_brightness.md` R160). -/
def State.tickNow (cfg : Config) (s : State) : Nat := s.pins.tickIn % 2 ^ cfg.tickW

/-- `Elapsed`: (now - last) mod 2^TICK_W (`44_brightness.md` R162). -/
def elapsed (cfg : Config) (now last : Nat) : Nat := (((now : Int) - (last : Int)) % ((2 ^ cfg.tickW : Nat) : Int)).toNat

/-- |reading - LAST_READING| on mathematical integers (`44_brightness.md` R160). -/
def readingChange (reading last : Nat) : Nat := ((reading : Int) - (last : Int)).natAbs

/-- A four-bit value as the value byte of a bus word (`00_scope.md` R5, zext_8). -/
def zext8 (n : BitVec 4) : Byte := n.setWidth 8

end Sys2Proof.Machine
end

