-- ==== Sys2Proof/Machine/Chain.lean ====
section
/-! DEFINITION. The device model of the chain of driver chips (`60_exceptions.md` R190 to R197): shifting, latching, and
what the LEDs show. -/

namespace Sys2Proof.Machine

/-- The shift register of a chip moves one place, most significant bit out, `b` in (`60_exceptions.md` R193). -/
def Chip.shiftIn (ch : Chip) (b : Bool) : Chip := { ch with sr := ch.sr.shiftConcat b }

/-- The bit a chip gives to the next one (`60_exceptions.md` R193). -/
def Chip.serialOut (ch : Chip) : Bool := ch.sr.getLsbD 15

/-- All four shift registers move together, each fed by the chip before it (`60_exceptions.md` R193). -/
def Chain.onBit (c : Chain) (b : Bool) : Chain :=
  #v[(c.get 0).shiftIn b, (c.get 1).shiftIn (c.get 0).serialOut, (c.get 2).shiftIn (c.get 1).serialOut,
    (c.get 3).shiftIn (c.get 2).serialOut]

/-- The register that a chip's shift register selects: its low address nibble (`60_exceptions.md` R192). -/
def Chip.address (ch : Chip) : BitVec 4 := ch.sr.extractLsb' 8 4

/-- The value byte in a chip's shift register (`60_exceptions.md` R194). -/
def Chip.value (ch : Chip) : Byte := ch.sr.extractLsb' 0 8

/-- A chip latches: it writes the value byte into the register its address nibble selects, a no-operation writes nothing
(`60_exceptions.md` R192, R194). An address with no meaning leaves the other registers at a free value; SR is not changed
by a latch (log 7). -/
def Chip.latch (cfg : Config) (ch : Chip) : Chip :=
  let a := ch.address
  let v := ch.value
  if h : 1 ≤ a.toNat ∧ a.toNat ≤ 8 then { ch with dig := ch.dig.set (a.toNat - 1) v (by omega) }
  else if a = lowNibble cfg.regDecode then { ch with decode := v }
  else if a = lowNibble cfg.regIntensity then { ch with intensity := v.extractLsb' 0 4 }
  else if a = lowNibble cfg.regScanlimit then { ch with scanLimit := v }
  else if a = lowNibble cfg.regShutdown then { ch with shutdown := v }
  else if a = lowNibble cfg.regTest then { ch with test := v }
  else if a = lowNibble cfg.regNoop then ch
  else { Config.meaninglessLatch ch with sr := ch.sr }

/-- All four chips latch at the same moment (`60_exceptions.md` R194). -/
def Chain.latch (cfg : Config) (c : Chain) : Chain :=
  #v[(c.get 0).latch cfg, (c.get 1).latch cfg, (c.get 2).latch cfg, (c.get 3).latch cfg]

/-- The chain's reaction to one bus event: shift on a bit, latch on the rising strobe, nothing on the falling one
(`60_exceptions.md` R193, R194). -/
def Chain.onEvent (cfg : Config) (c : Chain) : BusEvent → Chain
  | .bit b => c.onBit b
  | .strobeLow => c
  | .strobeHigh => c.latch cfg

/-- The chain's reaction to a run of bus events, in order (`20_memory.md` R70 (a)). -/
def Chain.onEvents (cfg : Config) (c : Chain) (es : List BusEvent) : Chain :=
  es.foldl (Chain.onEvent cfg) c

/-- The bus lines, and the counter of free values, after an event: a bit is on ser_data and the clock is back low; the strobe
follows its edges (`20_memory.md` R58, R60). What the spec leaves open of ser_data (log 20): after a bit the line keeps it
until the next bit or the rising strobe, a DESIGN CHOICE that no step shows, because every command ends its last frame; from
the rising strobe on it holds a free value. -/
def Wires.onEvent (p : Wires × Nat) : BusEvent → Wires × Nat
  | .bit b => ({ p.1 with serData := b, serClk := false }, p.2)
  | .strobeLow => ({ p.1 with serLoad := false }, p.2)
  | .strobeHigh => ({ p.1 with serData := Config.restingData p.2, serLoad := true }, p.2 + 1)

/-- The lines and the counter after a run of events, in order. -/
def Wires.onEvents (w : Wires) (n : Nat) (es : List BusEvent) : Wires × Nat := es.foldl Wires.onEvent (w, n)

/-- The chip is in the state boot leaves, in which its digit registers are shown as raw bitmaps: decode-mode off,
scan-limit 7, test off, out of shutdown (`60_exceptions.md` R197). -/
def Chip.showsBitmap (cfg : Config) (ch : Chip) : Bool :=
  decide (ch.decode = cfg.decodeOffVal) && decide (ch.scanLimit = scanLimitVal) &&
    decide (ch.test = cfg.testOffVal) && decide (ch.shutdown = cfg.shutdownRunVal)

/-- Whether the LED at a pixel is lit; no value when the chip is not in the state boot leaves
(`60_exceptions.md` R197, U11). -/
def litPixel (cfg : Config) (c : Chain) (x y : Coord) : Option Bool :=
  let k := toCell x y
  let ch := c.get k.chip
  if ch.showsBitmap cfg then some ((ch.dig.get k.digit).getLsbD k.segment.val) else none

end Sys2Proof.Machine
end

