-- ==== Sys2Proof/Machine/Flags.lean ====
section
/-! DEFINITION. Every condition the block tests and every flag rule (`10_state.md` R26 to R30): when a command is
accepted, when SETDIG is out of contract, when POLLAUTO updates, how SESSION moves. -/

namespace Sys2Proof.Machine

/-- cmd_ready between commands: PHASE = Run and FAULT = 0 (`10_state.md` R35). -/
def State.cmdReady (s : State) : Bool := decide (s.phase = .run) && !s.fault

/-- rsp_valid (`10_state.md` R35). -/
def State.rspValid (s : State) : Bool := s.response.isSome

/-- The command word the block accepts now, if any: `rst` low, cmd_valid and cmd_ready both 1 (`10_state.md` R35;
`rst` first, log 17). -/
def State.accepted (s : State) : Option Word :=
  if !s.pins.rst && s.pins.cmdValid && s.cmdReady then some s.pins.cmd else none

/-- The operand check of SETDIG, in the order of `30_encoding.md` R85: digit value, then cell range
(`43_glyph.md` R144). In contract, the cell and the digit. -/
def setdigOperands (x y : Coord) (d : Fin 16) : Except FaultReason (CellPos × Fin 10) :=
  if hd : d.val ≤ 9 then
    if h : x.val ≤ 13 ∧ y.val ≤ 11 then
      .ok ({ x := ⟨x.val, by omega⟩, y := ⟨y.val, by omega⟩ }, ⟨d.val, by omega⟩)
    else .error .cellRange
  else .error .digitValue

/-- SESSION after a STEPADJ in state Adjusting: confirm ends the session (`44_brightness.md` R153, R157). -/
def sessionAfter : Event → Session
  | .none => .adjusting
  | .inc => .adjusting
  | .dec => .adjusting
  | .confirm => .idle

/-- The three conditions of an automatic update (`44_brightness.md` R160): automatic mode, the interval passed (≥), the
change beyond the threshold (>). -/
def autoUpdates (cfg : Config) (s : State) : Bool :=
  decide (s.level = .auto) && decide (cfg.autoInterval ≤ elapsed cfg (s.tickNow cfg) s.lastUpdate) &&
    decide (cfg.autoThreshold < readingChange (s.readingNow cfg) s.lastReading)

end Sys2Proof.Machine
end

