-- ==== Sys2Proof/Machine/Ops.lean ====
section
/-! DEFINITION. The named operations over the machine: the register files, the bus (`20_memory.md`), the response, taking a
fault and leaving it by reset (`60_exceptions.md` R183, R184), boot (`70_reset_and_hazards.md` R212), and the host's turn. -/

namespace Sys2Proof.Machine

/-! ### Register files -/

/-- The read `FB[c][d]` or `SB[c][d]` (`00_scope.md` R6). -/
def Buffer.read (b : Buffer) (c : ChipIdx) (d : DigitIdx) : Byte := (b.get c).get d

/-- The write `FB[c][d] <- v` or `SB[c][d] <- v` (`00_scope.md` R6). -/
def Buffer.write (b : Buffer) (c : ChipIdx) (d : DigitIdx) (v : Byte) : Buffer :=
  b.set c.val ((b.get c).set d.val v)

/-- `MemRead(addr, 1)`: FB as a 32-byte store, no value at an address outside 0..31 (`20_memory.md` R51). -/
def memRead (fb : Buffer) (addr : Nat) : Option Byte :=
  if h : addr < 32 then some (Buffer.read fb ⟨addr / 8, by omega⟩ ⟨addr % 8, by omega⟩) else none

/-- `MemWrite(addr, 1, v)`: no result at an address outside 0..31 (`20_memory.md` R51). -/
def memWrite (fb : Buffer) (addr : Nat) (v : Byte) : Option Buffer :=
  if h : addr < 32 then some (Buffer.write fb ⟨addr / 8, by omega⟩ ⟨addr % 8, by omega⟩ v) else none

/-- `TestPx` (`41_framebuffer_ops.md` R112). -/
def testPx (fb : Buffer) (x y : Coord) : Bool :=
  let k := toCell x y
  (Buffer.read fb k.chip k.digit).getLsbD k.segment.val

/-- `SetPx` (`41_framebuffer_ops.md` R110). -/
def setPx (fb : Buffer) (x y : Coord) (v : Bool) : Buffer :=
  let k := toCell x y
  let old := Buffer.read fb k.chip k.digit
  let mask : Byte := 1#8 <<< k.segment.val
  Buffer.write fb k.chip k.digit (if v then old ||| mask else old &&& ~~~mask)

/-- Every byte is 0x00 (`41_framebuffer_ops.md` R114). -/
def Buffer.isZero (b : Buffer) : Bool :=
  chipIdxs.all fun c => digitIdxs.all fun d => decide (Buffer.read b c d = 0)

/-- Every byte written 0x00, register by register (`41_framebuffer_ops.md` R113). -/
def Buffer.clear (b : Buffer) : Buffer :=
  chipIdxs.foldl (fun b c => digitIdxs.foldl (fun b d => Buffer.write b c d 0) b) b

/-! ### The bus -/

/-- The events of a byte, bit 7 first (`20_memory.md` R54). -/
def byteEvents (v : Byte) : List BusEvent :=
  ([7, 6, 5, 4, 3, 2, 1, 0] : List Nat).map fun i => .bit (v.getLsbD i)

/-- `BusWord(reg, val)`: the register byte, then the value byte (`20_memory.md` R59). -/
def wordEvents (w : Byte × Byte) : List BusEvent := byteEvents w.1 ++ byteEvents w.2

/-- `Strobe()` (`20_memory.md` R60). -/
def strobeEvents : List BusEvent := [.strobeLow, .strobeHigh]

/-- `Frame(w3, w2, w1, w0)`: the words in CHAIN_ORDER, then one strobe pulse (`20_memory.md` R55, R61). -/
def frameEvents (w : FrameWords) : List BusEvent :=
  (chainOrder.toList.flatMap fun c => wordEvents (w c)) ++ strobeEvents

/-- `Broadcast(reg, val)`: the same word for all four chips (`20_memory.md` R62). -/
def broadcastEvents (reg val : Byte) : List BusEvent := frameEvents fun _ => (reg, val)

/-- The block emits bus events: the lines move, the chain reacts, the trace grows (`20_memory.md` R56, R58, R60,
`00_scope.md` R7). Every event reaches the chips as emitted (U8). -/
def State.emit (cfg : Config) (s : State) (es : List BusEvent) : State :=
  s.setBus (s.wires.onEvents s.freeCtr es).1 (s.chain.onEvents cfg es) (s.trace ++ es) (s.wires.onEvents s.freeCtr es).2

/-- A control register written in all four chips (`20_memory.md` R62). -/
def State.broadcast (cfg : Config) (s : State) (reg val : Byte) : State := s.emit cfg (broadcastEvents reg val)

/-! ### Responses -/

/-- `Respond(code)` (`30_encoding.md` R86). -/
def State.respond (s : State) (code : BitVec 2) : State := s.setResponse (some code)

/-- The response code of a Boolean (`30_encoding.md` R86). -/
def boolCode (b : Bool) : BitVec 2 := if b then 1 else 0

/-! ### Taking a fault, and reset, the only way out -/

/-- `raise Fault(reason)`: nothing of the command, then FAULT, then response 3 (`60_exceptions.md` R183). The label is the
model's (log 13). -/
def raiseFault (r : FaultReason) (s : State) : State := (s.latchFault r).respond 3

/-- The `rst` input: every element of the block at its reset value, the chips as they were
(`70_reset_and_hazards.md` R210, `10_state.md` R38). The host's pins and the model's counter are not the block's. -/
def blockReset (cfg : Config) (s : State) : State :=
  { State.resetOn cfg with pins := s.pins, hostPlan := s.hostPlan, chain := s.chain, freeCtr := s.freeCtr }

/-! ### What the block does when it accepts no command -/

/-- The control writes of boot, in order (`70_reset_and_hazards.md` R212). -/
def bootWrites (cfg : Config) : List (Byte × Byte) :=
  [(cfg.regDecode, cfg.decodeOffVal), (cfg.regIntensity, zext8 cfg.defaultIntensity),
    (cfg.regScanlimit, scanLimitVal), (cfg.regTest, cfg.testOffVal)] ++
  digitIdxs.map (fun k => (BitVec.ofNat 8 (k.val + 1), 0)) ++
  [(cfg.regShutdown, cfg.shutdownRunVal)]

/-- The boot sequence: thirteen broadcast frames, then PHASE <- Run (`70_reset_and_hazards.md` R212). The bus lines end at their
reset levels, ser_data = 0 among them, as the state after boot is that of reset in all that `10_state.md` R39 does not name. -/
def boot (cfg : Config) (s : State) : State :=
  (((bootWrites cfg).foldl (fun s w => s.broadcast cfg w.1 w.2) s).setWires idleWires).setPhase .run

/-- The block's turn when it accepts no command: `rst` resets it; in phase Boot it boots; otherwise it holds its state
(`60_exceptions.md` R183, R199). The response of the command before has been transferred (`10_state.md` R35). -/
def blockIdle (cfg : Config) (s : State) : State :=
  if s.pins.rst then blockReset cfg s
  else
    match s.phase with
    | .boot => boot cfg (s.setResponse none)
    | .run => s.setResponse none

/-- The host's turn after the block's: it drives the next choice of its plan; with no plan left it withdraws cmd_valid and
rst and leaves the other pins (log 2). -/
def hostTurn (s : State) : State :=
  match s.hostPlan with
  | p :: rest => s.setHost p rest
  | [] => s.setHost { s.pins with rst := false, cmdValid := false } []

/-- A step's outcome with its next state changed by `f`. -/
def mapNext (f : State → State) : Host.Outcome State Fault Refusal → Host.Outcome State Fault Refusal
  | .next s => .next (f s)
  | .fault r => .fault r
  | .refused r => .refused r

end Sys2Proof.Machine
end

