-- ==== Sys2Proof/Machine/Glyph.lean ====
section
/-! DEFINITION. The glyph encoder and SETDIG (`43_glyph.md`). -/

namespace Sys2Proof.Machine

/-- The pixels of a glyph cell at the given offsets, all written with one value. -/
def paintCell (fb : Buffer) (p : CellPos) (offs : List Offset) (v : Bool) : Buffer :=
  offs.foldl (fun fb o => setPx fb (cellPixel p o).1 (cellPixel p o).2 v) fb

/-- `ClearCell` (`43_glyph.md` R143). -/
def clearCell (fb : Buffer) (p : CellPos) : Buffer := paintCell fb p cellOffsets false

/-- `DrawDigit`: the clear first, then the lit segments (`43_glyph.md` R143). -/
def drawDigit (cfg : Config) (fb : Buffer) (p : CellPos) (d : Fin 10) : Buffer :=
  paintCell (clearCell fb p) p (glyphOffsets cfg d) true

/-- SETDIG on a configuration: the checks come before the clear (`43_glyph.md` R143, R144). -/
def setdig (cfg : Config) (x y : Coord) (d : Fin 16) (s : State) : State :=
  match setdigOperands x y d with
  | .error r => raiseFault r s
  | .ok (p, v) => (s.setFb (drawDigit cfg s.fb p v)).respond 0

/-- SETDIG x, y, d (`43_glyph.md` R143). -/
def execSetdig (x y : Coord) (d : Fin 16) (s : State) : Host.Outcome State Fault Refusal :=
  .next (setdig Config.actual x y d s)

end Sys2Proof.Machine
end

