-- ==== Sys2Proof/Machine/Brightness.lean ====
section
/-! DEFINITION. The brightness controller: BEGINADJ, STEPADJ, POLLAUTO (`44_brightness.md`). -/

namespace Sys2Proof.Machine

/-- `RenderLevel` (`44_brightness.md` R151). -/
def renderLevel (cfg : Config) (l : Level) (fb : Buffer) : Buffer :=
  match l with
  | .auto => clearCell (clearCell fb cfg.levelTensPos) cfg.levelUnitsPos
  | .manual n => drawDigit cfg (drawDigit cfg fb cfg.levelTensPos (tensDigit n)) cfg.levelUnitsPos (unitsDigit n)

/-- The marker pixels set (`44_brightness.md` R152). -/
def drawMarkers (cfg : Config) (fb : Buffer) : Buffer :=
  cfg.markers.foldl (fun fb m => setPx fb m.1 m.2 true) fb

/-- FB after a BEGINADJ that opens a session: markers, and the level when it is manual (`44_brightness.md` R152). -/
def beginPicture (cfg : Config) (l : Level) (fb : Buffer) : Buffer :=
  match l with
  | .auto => drawMarkers cfg fb
  | .manual n => renderLevel cfg (.manual n) (drawMarkers cfg fb)

/-- BEGINADJ on a configuration (`44_brightness.md` R152). -/
def beginadj (cfg : Config) (s : State) : State :=
  match s.session with
  | .idle => ((s.setSession .adjusting).setFb (beginPicture cfg s.level s.fb)).respond 1
  | .adjusting => s.respond 0

/-- The intensity frame of a manual level; none for AUTO or without MANUAL_PUSH (`44_brightness.md` R156). -/
def pushLevel (cfg : Config) (l : Level) (s : State) : State :=
  match l with
  | .auto => s
  | .manual n => if cfg.manualPush then s.broadcast cfg cfg.regIntensity (zext8 n) else s

/-- The effect of an increment or a decrement that leads to level `l`: LEVEL, the intensity frame, the digits
(`44_brightness.md` R153). -/
def adjustTo (cfg : Config) (l : Level) (s : State) : State :=
  let s := pushLevel cfg l (s.setLevel l)
  (s.setFb (renderLevel cfg l s.fb)).respond 1

/-- STEPADJ on a configuration (`44_brightness.md` R153). -/
def stepadj (cfg : Config) (ev : Event) (s : State) : State :=
  match s.session, ev with
  | .idle, _ => s.respond 0
  | .adjusting, .none => s.respond 0
  | .adjusting, .inc => adjustTo cfg s.level.up s
  | .adjusting, .dec => adjustTo cfg s.level.down s
  | .adjusting, .confirm => (s.setSession (sessionAfter .confirm)).respond 2

/-- POLLAUTO on a configuration, its operands from the pins (`44_brightness.md` R160). -/
def pollauto (cfg : Config) (s : State) : State :=
  if autoUpdates cfg s then
    ((s.broadcast cfg cfg.regIntensity (zext8 (sensorMap cfg (s.readingNow cfg)))).recordAuto
      (s.readingNow cfg) (s.tickNow cfg)).respond 0
  else s.respond 0

/-- BEGINADJ (`44_brightness.md` R152). -/
def execBeginadj (s : State) : Host.Outcome State Fault Refusal := .next (beginadj Config.actual s)

/-- STEPADJ ev (`44_brightness.md` R153). -/
def execStepadj (ev : Event) (s : State) : Host.Outcome State Fault Refusal := .next (stepadj Config.actual ev s)

/-- POLLAUTO (`44_brightness.md` R160). -/
def execPollauto (s : State) : Host.Outcome State Fault Refusal := .next (pollauto Config.actual s)

end Sys2Proof.Machine
end

