-- ==== Sys2Proof/Machine/Flush.lean ====
section
/-! DEFINITION. FLUSH: the diff engine and the chain protocol (`42_flush.md`), step by step as R121 writes it, with the
sequencer of `10_state.md` R36 as its variables. -/

namespace Sys2Proof.Machine

/-- Whether a row is to be sent: `FB[c][k] != SB[c][k]` (`42_flush.md` R121). -/
def rowDiffers (fb sb : Buffer) (c : ChipIdx) (k : DigitIdx) : Bool :=
  decide (Buffer.read fb c k ≠ Buffer.read sb c k)

/-- `CNT[c]`: how many rows of chip c differ (`42_flush.md` R121, R122). -/
def diffCount (fb sb : Buffer) (c : ChipIdx) : Fin 9 :=
  ⟨(digitIdxs.filter (rowDiffers fb sb c)).length, Nat.lt_succ_of_le (List.length_filter_le _ digitIdxs)⟩

/-- `MAXCOUNT` (`42_flush.md` R121, R122). -/
def maxDiffCount (fb sb : Buffer) : Fin 9 :=
  max (max (diffCount fb sb 0) (diffCount fb sb 1)) (max (diffCount fb sb 2) (diffCount fb sb 3))

/-- The least k with NEXT[c] ≤ k ≤ 7 whose row differs, if any (`42_flush.md` R121, R123). -/
def nextRow (fb sb : Buffer) (c : ChipIdx) (start : Fin 9) : Option DigitIdx :=
  digitIdxs.find? fun k => decide (start.val ≤ k.val) && rowDiffers fb sb c k

/-- The bus address of a digit register, k+1 (`20_memory.md` R52, R53). -/
def digitReg (k : DigitIdx) : Byte := BitVec.ofNat 8 (k.val + 1)

/-- k+1 as a search start (`42_flush.md` R123). -/
def afterRow (k : DigitIdx) : Fin 9 := ⟨k.val + 1, by omega⟩

/-- Step 1: the counts, taken once, and NEXT[c] <- 0 (`42_flush.md` R121, R122). -/
def flushStart (s : State) : State :=
  s.setSeq { s.seq with
    cnt := #v[diffCount s.fb s.sb 0, diffCount s.fb s.sb 1, diffCount s.fb s.sb 2, diffCount s.fb s.sb 3]
    maxCount := maxDiffCount s.fb s.sb
    next := Vector.replicate 4 0 }

/-- NEXT[c] <- n. -/
def setNext (s : State) (c : ChipIdx) (n : Fin 9) : State :=
  s.setSeq { s.seq with next := s.seq.next.set c.val n }

/-- Step 2 for one chip, the one at position p of CHAIN_ORDER: its word, then at once its SB byte and search start; the
no-operation word when no row is left (`42_flush.md` R121, R123, R124). -/
def flushWord (cfg : Config) (s : State) (p : Fin 4) : State :=
  let c := chainOrder.get p
  let s := s.setSeq { s.seq with pos := p }
  match nextRow s.fb s.sb c (s.seq.next.get c) with
  | some k =>
    let v := Buffer.read s.fb c k
    let s := s.emit cfg (wordEvents (digitReg k, v))
    setNext (s.setSb (Buffer.write s.sb c k v)) c (afterRow k)
  | none => setNext (s.emit cfg (wordEvents (cfg.regNoop, cfg.noopVal))) c 8

/-- One frame: four words in CHAIN_ORDER, then one strobe pulse (`42_flush.md` R121, R125). -/
def flushFrame (cfg : Config) (s : State) (f : Fin 8) : State :=
  let s := s.setSeq { s.seq with frame := f }
  (([0, 1, 2, 3] : List (Fin 4)).foldl (flushWord cfg) s).emit cfg strobeEvents

/-- Frames 0 .. MAXCOUNT-1 (`42_flush.md` R121). -/
def flushFrames (cfg : Config) (s : State) : State :=
  (digitIdxs.take s.seq.maxCount.val).foldl (flushFrame cfg) s

/-- The end of FLUSH: the sequencer is dead and holds any value (`10_state.md` R36, U17; log 6). -/
def flushEnd (s : State) : State := (s.setSeq (Config.deadSequencer s.freeCtr)).bumpFree

/-- FLUSH on a configuration (`42_flush.md` R121). -/
def flush (cfg : Config) (s : State) : State := (flushEnd (flushFrames cfg (flushStart s))).respond 0

/-- FLUSH (`42_flush.md` R121). -/
def execFlush (s : State) : Host.Outcome State Fault Refusal := .next (flush Config.actual s)

end Sys2Proof.Machine
end

