-- ==== Sys2Proof/Machine/Framebuffer.lean ====
section
/-! DEFINITION. SETPX, TESTPX, CLEAR, ISEMPTY (`41_framebuffer_ops.md`). -/

namespace Sys2Proof.Machine

/-- The effect of SETPX x, y, b (`41_framebuffer_ops.md` R110). -/
def setpx (x y : Coord) (b : Bool) (s : State) : State := (s.setFb (setPx s.fb x y b)).respond 0

/-- The effect of TESTPX x, y (`41_framebuffer_ops.md` R112). -/
def testpx (x y : Coord) (s : State) : State := s.respond (boolCode (testPx s.fb x y))

/-- The effect of CLEAR (`41_framebuffer_ops.md` R113). -/
def clear (s : State) : State := (s.setFb (Buffer.clear s.fb)).respond 0

/-- The effect of ISEMPTY (`41_framebuffer_ops.md` R114). -/
def isempty (s : State) : State := s.respond (boolCode (Buffer.isZero s.fb))

/-- SETPX x, y, b (`41_framebuffer_ops.md` R110). -/
def execSetpx (x y : Coord) (b : Bool) (s : State) : Host.Outcome State Fault Refusal := .next (setpx x y b s)

/-- TESTPX x, y (`41_framebuffer_ops.md` R112). -/
def execTestpx (x y : Coord) (s : State) : Host.Outcome State Fault Refusal := .next (testpx x y s)

/-- CLEAR (`41_framebuffer_ops.md` R113). -/
def execClear (s : State) : Host.Outcome State Fault Refusal := .next (clear s)

/-- ISEMPTY (`41_framebuffer_ops.md` R114). -/
def execIsempty (s : State) : Host.Outcome State Fault Refusal := .next (isempty s)

end Sys2Proof.Machine
end

