-- ==== Sys2Proof/Machine/System.lean ====
section
/-! DEFINITION. The debug commands SETTEST and DUMP (`45_system.md`). -/

namespace Sys2Proof.Machine

/-- SETTEST on a configuration: one broadcast frame to the test register (`45_system.md` R171). -/
def settest (cfg : Config) (b : Bool) (s : State) : State :=
  (s.broadcast cfg cfg.regTest (if b then cfg.testOnVal else cfg.testOffVal)).respond 0

/-- SETTEST b (`45_system.md` R171). -/
def execSettest (b : Bool) (s : State) : Host.Outcome State Fault Refusal := .next (settest Config.actual b s)

/-- The effect of DUMP: none but the response (`45_system.md` R172). -/
def dump (s : State) : State := s.respond 0

/-- DUMP (`45_system.md` R172). -/
def execDump (s : State) : Host.Outcome State Fault Refusal := .next (dump s)

end Sys2Proof.Machine
end

