-- ==== Sys2Proof/Machine/Configured.lean ====
section
/-! DEFINITION. The machine as a function of its configuration (`00_scope.md` R4: each parameter is an argument of the model):
the meaning of every command and one turn of the machine for any `Config`. `exec`, `step` and `State.reset`, whose types the
host fixes, are these at `Config.actual`. -/

namespace Sys2Proof.Machine

/-- The effect of a command on a configuration. -/
def execOn (cfg : Config) (i : Instr) (s : State) : State :=
  match i with
  | .setpx x y b => setpx x y b s
  | .testpx x y => testpx x y s
  | .setdig x y d => setdig cfg x y d s
  | .clear => clear s
  | .isempty => isempty s
  | .flush => flush cfg s
  | .beginadj => beginadj cfg s
  | .stepadj ev => stepadj cfg ev s
  | .pollauto => pollauto cfg s
  | .settest b => settest cfg b s
  | .dump => dump s

/-- One turn of the machine with the meanings `run`. An accepted word is decoded and run, or faults in decode
(`30_encoding.md` R85); with no accepted word the block is reset, boots, or holds its state; then the host has its turn. -/
def turn (cfg : Config) (run : Instr → State → Host.Outcome State Fault Refusal) (s : State) :
    Host.Outcome State Fault Refusal :=
  match s.accepted with
  | some w =>
    match decode w with
    | .ok i => mapNext hostTurn (run i s)
    | .error r => .next (hostTurn (raiseFault r s))
  | none => .next (hostTurn (blockIdle cfg s))

/-- One step of the machine on a configuration. -/
def stepOn (cfg : Config) (s : State) : Host.Outcome State Fault Refusal :=
  turn cfg (fun i s => .next (execOn cfg i s)) s

end Sys2Proof.Machine
end

