-- ==== Sys2Proof/Machine/Dispatch.lean ====
section
/-! DEFINITION. One arm per command, each one call of its meaning. -/

namespace Sys2Proof.Machine

def exec (i : Instr) (s : State) : Host.Outcome State Fault Refusal :=
  match i with
  | .setpx x y b => Sys2Proof.Machine.execSetpx x y b s
  | .testpx x y => Sys2Proof.Machine.execTestpx x y s
  | .setdig x y d => Sys2Proof.Machine.execSetdig x y d s
  | .clear => Sys2Proof.Machine.execClear s
  | .isempty => Sys2Proof.Machine.execIsempty s
  | .flush => Sys2Proof.Machine.execFlush s
  | .beginadj => Sys2Proof.Machine.execBeginadj s
  | .stepadj ev => Sys2Proof.Machine.execStepadj ev s
  | .pollauto => Sys2Proof.Machine.execPollauto s
  | .settest b => Sys2Proof.Machine.execSettest b s
  | .dump => Sys2Proof.Machine.execDump s

end Sys2Proof.Machine
end

