-- ==== Sys2Proof/Machine/Step.lean ====
section
/-! DEFINITION. One step of the machine: the block acts on what the host drives now, then the host drives its next choice
(`00_scope.md` R8, `10_state.md` R20, R35). -/

namespace Sys2Proof.Machine

/-- One step, on the machine's own configuration. -/
def step (s : State) : Host.Outcome State Fault Refusal := turn Config.actual exec s

/-- The state in which the next step accepts and runs the word `w`: the block ready (boot done, FAULT 0), and the host
presenting the word. It stands for the host issuing a command (log 3). -/
def State.withFetchWord (s : State) (nbits w : Nat) : State :=
  { s with
    phase := .run
    fault := false
    pins := { s.pins with rst := false, cmdValid := true, cmd := BitVec.ofNat 16 (w % 2 ^ nbits) } }

end Sys2Proof.Machine
end

