-- ==== Sys2Proof/Safety.lean ====
section
/-! DEFINITION. The terms that claims are stated in: a running block, the machine's invariant, the words the bus may
carry, the frames a FLUSH sends, and the pixels a digit lights. Each is written from a rule of the spec, not from the
operation that meets it. -/

namespace Sys2Proof.Machine

/-- Boot is done and FAULT = 0: the premise of every claim about commands (`60_exceptions.md` R183). -/
def Running (s : State) : Prop := s.phase = .run ∧ s.fault = false

/-- Every digit register of every chip holds the SB byte (`10_state.md` R24 (a)). -/
def ChipsHoldSb (s : State) : Prop :=
  ∀ (c : ChipIdx) (k : DigitIdx), (s.chain.get c).dig.get k = Buffer.read s.sb c k

/-- Decode-mode, scan-limit and shutdown of every chip are as boot leaves them (`10_state.md` R39). -/
def ChipsConfigured (cfg : Config) (s : State) : Prop :=
  ∀ c : ChipIdx, (s.chain.get c).decode = cfg.decodeOffVal ∧ (s.chain.get c).scanLimit = scanLimitVal ∧
    (s.chain.get c).shutdown = cfg.shutdownRunVal

/-- In manual mode every chip's intensity is LEVEL (`10_state.md` R33, `44_brightness.md` R156). -/
def IntensityFollowsLevel (s : State) : Prop :=
  ∀ n : BitVec 4, s.level = .manual n → ∀ c : ChipIdx, (s.chain.get c).intensity = n

/-- The bus lines are at rest: clock low, strobe high; what ser_data holds after a frame is open (`20_memory.md` R58, R60;
log 20). -/
def LinesAtRest (s : State) : Prop := s.wires.serClk = false ∧ s.wires.serLoad = true

/-- The block is as reset leaves it, but for the bus trace and the sequencer (`10_state.md` R38). -/
def BlockAsReset (cfg : Config) (s : State) : Prop :=
  s.fb = zeroBuffer ∧ s.sb = zeroBuffer ∧ s.session = .idle ∧ s.fault = false ∧
    s.level = .manual cfg.defaultIntensity ∧ s.lastReading = 0 ∧ s.lastUpdate = 0 ∧
    s.wires = { serData := false, serClk := false, serLoad := true }

/-- LAST_READING and LAST_UPDATE fit their widths (`10_state.md` R31, R32). -/
def RecordsInRange (cfg : Config) (s : State) : Prop :=
  s.lastReading < 2 ^ cfg.sensorW ∧ s.lastUpdate < 2 ^ cfg.tickW

/-- The invariant of the machine on a configuration: the lines at rest between commands and the records in range; before boot
the block is as reset leaves it; after boot the chips hold SB and the settings of boot, and in manual mode the intensity
LEVEL (`10_state.md` R24, R31 to R33, R38, R39). -/
def Inv (cfg : Config) (s : State) : Prop :=
  LinesAtRest s ∧ RecordsInRange cfg s ∧ (s.phase = .boot → BlockAsReset cfg s) ∧
    (s.phase = .run → ChipsHoldSb s ∧ ChipsConfigured cfg s ∧ IntensityFollowsLevel s)

/-- A bus word that `30_encoding.md` R87 lists. -/
def BusWordAllowed (cfg : Config) (w : Byte × Byte) : Prop :=
  w = (cfg.regNoop, cfg.noopVal) ∨ (1 ≤ w.1.toNat ∧ w.1.toNat ≤ 8) ∨ w = (cfg.regDecode, cfg.decodeOffVal) ∨
    (w.1 = cfg.regIntensity ∧ w.2.toNat < 16) ∨ w = (cfg.regScanlimit, scanLimitVal) ∨
    w = (cfg.regShutdown, cfg.shutdownRunVal) ∨ w = (cfg.regTest, cfg.testOffVal) ∨ w = (cfg.regTest, cfg.testOnVal)

/-- The bus events of a run of frames. -/
def framesEvents (ws : List FrameWords) : List BusEvent := ws.flatMap frameEvents

/-- The rows of chip c that differ, in increasing order: k(c,0) < k(c,1) < .. (`42_flush.md` R128). -/
def diffRows (fb sb : Buffer) (c : ChipIdx) : List DigitIdx :=
  digitIdxs.filter fun k => decide (Buffer.read fb c k ≠ Buffer.read sb c k)

/-- The largest of the four counts of differing rows (`42_flush.md` R127). -/
def framesNeeded (fb sb : Buffer) : Nat :=
  max (max (diffRows fb sb 0).length (diffRows fb sb 1).length)
    (max (diffRows fb sb 2).length (diffRows fb sb 3).length)

/-- Frame j of a FLUSH: for chip c its j-th differing row, or the no-operation word (`42_flush.md` R128). -/
def plannedFrame (cfg : Config) (fb sb : Buffer) (j : Nat) : FrameWords := fun c =>
  match (diffRows fb sb c)[j]? with
  | some k => (BitVec.ofNat 8 (k.val + 1), Buffer.read fb c k)
  | none => (cfg.regNoop, cfg.noopVal)

/-- The frames of a FLUSH as a function of FB and SB at its start (`42_flush.md` R128). -/
def flushPlan (cfg : Config) (fb sb : Buffer) : List FrameWords :=
  (List.range (framesNeeded fb sb)).map (plannedFrame cfg fb sb)

/-- FB and SB agree below each chip's search start (`42_flush.md` R129). -/
def SearchSound (s : State) : Prop :=
  ∀ (c : ChipIdx) (k : DigitIdx), k.val < (s.seq.next.get c).val → Buffer.read s.fb c k = Buffer.read s.sb c k

/-- Where a pixel lies in a glyph cell, if it does (`43_glyph.md` R145). -/
def offsetIn (p : CellPos) (x y : Coord) : Option Offset :=
  if h : (p.x.val ≤ x.val ∧ x.val < p.x.val + 3) ∧ (p.y.val ≤ y.val ∧ y.val < p.y.val + 5) then
    some (⟨x.val - p.x.val, by omega⟩, ⟨y.val - p.y.val, by omega⟩)
  else none

/-- A digit lights an offset: it is in SEG_OFFS[i] for some i with GLYPH[d][i] = 1 (`43_glyph.md` R145). -/
def Lights (cfg : Config) (d : Fin 10) (o : Offset) : Prop :=
  ∃ i : Fin 7, (cfg.glyph.get d).getLsbD i.val = true ∧ o ∈ (cfg.segOffs.get i).toList

/-- `after` is `before` with digit d drawn at p: in the cell the glyph and nothing else, outside it no change
(`43_glyph.md` R145). -/
def DigitDrawn (cfg : Config) (p : CellPos) (d : Fin 10) (before after : Buffer) : Prop :=
  ∀ x y : Coord,
    match offsetIn p x y with
    | some o => (testPx after x y = true ↔ Lights cfg d o)
    | none => testPx after x y = testPx before x y

/-- `after` is `before` with the cell at p dark and no other change (`44_brightness.md` R151). -/
def CellCleared (p : CellPos) (before after : Buffer) : Prop :=
  ∀ x y : Coord, testPx after x y = if (offsetIn p x y).isSome then false else testPx before x y

/-- `after` is `before` with the level shown: both digits drawn, tens then units, or both cells cleared in automatic mode
(`44_brightness.md` R151). -/
def LevelShown (cfg : Config) (l : Level) (before after : Buffer) : Prop :=
  ∃ mid : Buffer,
    match l with
    | .auto => CellCleared cfg.levelTensPos before mid ∧ CellCleared cfg.levelUnitsPos mid after
    | .manual n => DigitDrawn cfg cfg.levelTensPos (tensDigit n) before mid ∧
        DigitDrawn cfg cfg.levelUnitsPos (unitsDigit n) mid after

/-- `after` is `before` with the marker pixels set and no other change (`44_brightness.md` R152). -/
def MarkersSet (cfg : Config) (before after : Buffer) : Prop :=
  ∀ x y : Coord, testPx after x y = (decide ((x, y) ∈ cfg.markers) || testPx before x y)

/-- A poll is due: automatic mode, the interval passed (≥, modulo 2^TICK_W), the reading changed by more than the threshold
(>), with the SENSOR_W and TICK_W bits on the inputs (`44_brightness.md` R160, R162). -/
def PollDue (cfg : Config) (s : State) : Prop :=
  s.level = .auto ∧
    (cfg.autoInterval : Int) ≤ ((s.pins.tickIn % 2 ^ cfg.tickW : Nat) - (s.lastUpdate : Int)) % (2 ^ cfg.tickW : Nat) ∧
    (cfg.autoThreshold : Int) < |((s.pins.sensorIn % 2 ^ cfg.sensorW : Nat) : Int) - s.lastReading|

/-- What a poll from `s` to `t` does: when due, one intensity frame with the mapped reading, which every chip takes, and the
reading and time recorded; else nothing but the response (`44_brightness.md` R160). -/
def PollEffect (cfg : Config) (s t : State) : Prop :=
  (PollDue cfg s →
    t.trace = s.trace ++ framesEvents
      [fun _ => (cfg.regIntensity, (sensorMap cfg (s.pins.sensorIn % 2 ^ cfg.sensorW)).setWidth 8)] ∧
    (∀ c : ChipIdx, t.chain.get c =
      { s.chain.get c with
          sr := (t.chain.get c).sr, intensity := sensorMap cfg (s.pins.sensorIn % 2 ^ cfg.sensorW) }) ∧
    LinesAtRest t ∧
    t = { s with lastReading := s.pins.sensorIn % 2 ^ cfg.sensorW, lastUpdate := s.pins.tickIn % 2 ^ cfg.tickW
                 trace := t.trace, chain := t.chain, wires := t.wires, freeCtr := t.freeCtr, response := some 0 }) ∧
  (¬ PollDue cfg s → t = { s with response := some 0 })

end Sys2Proof.Machine
end

