-- ==== Sys2Proof/Certificates/Slice0/Obligations.lean ====
section
/-! DEFINITION. The statements for the provers. Each says in its docstring which rules of spec/ it formalises; "decision D<n>"
marks what the spec itself calls its own choice (`92_eei_decisions.md`), "log <n>" what is the model's. -/

open Sys2Proof Sys2Proof.Machine

/-! ### Encoding -/

/-- Encoding and decoding are inverse on every command and on every word that decodes (`30_encoding.md` R82, R83, R84;
decisions D3, D34): no bit of an encoding is dropped and no command has two spellings. -/
def Obligations.DecodeEncodeInverse : Prop :=
  (∀ i : Instr, decode (encode i) = .ok i) ∧ ∀ (w : Word) (i : Instr), decode w = .ok i → encode i = w

/-- The words that are no command, by reason: ReservedOpcode for op 0x0 and 0xC..0xF, NonZeroField for a set must-be-zero bit
of a row of R82; decode gives no other reason (`30_encoding.md` R82, R84, R85 (1) and (2); decisions D3, D34). -/
def Obligations.DecodeRejectsExactly : Prop :=
  ∀ w : Word,
    (decode w = .error .reservedOpcode ↔ ((opField w).toNat = 0 ∨ 12 ≤ (opField w).toNat)) ∧
    (decode w = .error .nonZeroField ↔
      (((opField w).toNat = 1 ∧ w &&& 0x000E ≠ 0) ∨ ((opField w).toNat = 2 ∧ w &&& 0x000F ≠ 0) ∨
        ((opField w).toNat ∈ [4, 5, 6, 7, 9, 11] ∧ w &&& 0x0FFF ≠ 0) ∨
        ((opField w).toNat = 8 ∧ w &&& 0x0FFC ≠ 0) ∨ ((opField w).toNat = 10 ∧ w &&& 0x0FFE ≠ 0))) ∧
    decode w ≠ .error .digitValue ∧ decode w ≠ .error .cellRange

/-- Worked encodings, from `30_encoding.md` (the list after R90) and `95_test_vectors.md` V10 to V12. -/
def Obligations.WorkedWordsDecode : Prop :=
  decode 0x1701 = .ok (.setpx 7 0 true) ∧ decode 0x1FF0 = .ok (.setpx 15 15 false) ∧
    decode 0x2350 = .ok (.testpx 3 5) ∧ decode 0x3DB9 = .ok (.setdig 13 11 9) ∧ decode 0x8002 = .ok (.stepadj .dec) ∧
    decode 0xA001 = .ok (.settest true) ∧ decode 0x1002 = .error .nonZeroField ∧
    decode 0xC000 = .error .reservedOpcode

/-! ### The step -/

/-- A step runs the decoded command: with `rst` low, a command presented, boot done and FAULT 0, the step is the command's
meaning at that state, and then the host's turn, which moves only the host's pins and plan (`10_state.md` R20, R35;
`20_memory.md` R68; the host's plan is the model's, log 2). -/
def Obligations.StepRunsDecodedCommand : Prop :=
  ∀ (s : State) (i : Instr), s.pins.rst = false → s.pins.cmdValid = true → Running s → decode s.pins.cmd = .ok i →
    step s = mapNext hostTurn (exec i s) ∧
      ∀ t : State, hostTurn t =
        match t.hostPlan with
        | p :: rest => { t with pins := p, hostPlan := rest }
        | [] => { t with pins := { t.pins with rst := false, cmdValid := false } }

/-- The interface `withFetchWord` presents the word to a ready block, and the next step runs the command it decodes to; a
statement about the model's own loader (log 3). -/
def Obligations.FetchedWordRunsNext : Prop :=
  ∀ (s : State) (w : Nat) (i : Instr), decodeTableWord 16 w = some i →
    step (s.withFetchWord 16 w) = mapNext hostTurn (exec i (s.withFetchWord 16 w))

/-- A word that is no command faults: nothing of the block changes but FAULT (and the model's label), the response is 3
(`60_exceptions.md` R183, `30_encoding.md` R85; decision D5; the label is log 13). -/
def Obligations.StepFaultsOnBadWord : Prop :=
  ∀ (s : State) (r : FaultReason), s.pins.rst = false → s.pins.cmdValid = true → Running s →
    decode s.pins.cmd = .error r →
    step s = .next (hostTurn { s with fault := true, faultReason := some r, response := some 3 })

/-- A command is accepted exactly when `rst` is low, cmd_valid is 1, PHASE = Run and FAULT = 0; a ready or faulted block with
nothing accepted holds all its state (`10_state.md` R26, R35, `60_exceptions.md` R183, R199; decisions D2, D5, D33). The model's
own choices: `rst` comes first (log 17), and the response is withdrawn in that turn (log 16). -/
def Obligations.AcceptsExactlyWhenReady : Prop :=
  ∀ s : State,
    (∀ w : Word, s.accepted = some w ↔
      (s.pins.rst = false ∧ s.pins.cmdValid = true ∧ s.phase = .run ∧ s.fault = false ∧ w = s.pins.cmd)) ∧
    (s.pins.rst = false → s.phase = .run → s.accepted = none →
      step s = .next (hostTurn { s with response := none }))

/-- After a fault nothing happens until `rst`: over any number of steps in which the host does not drive `rst`, whatever
commands it presents, the whole block, the bus trace and the chips stay as they are (`60_exceptions.md` R183, R184;
decision D5). The model's own choices: the response is withdrawn in the first of those steps (log 16), no step of a faulted
block stops the run (log 14), and the host leaves `rst` low when its plan has ended (log 2). -/
def Obligations.FaultHaltsUntilReset : Prop :=
  ∀ (k : Nat) (s : State), s.phase = .run → s.fault = true → s.pins.rst = false →
    (∀ p ∈ s.hostPlan, p.rst = false) →
    ∃ t : State, Host.Core.run core k s = .next t ∧
      t = { s with response := t.response, pins := t.pins, hostPlan := t.hostPlan } ∧
      (0 < k → t.response = none) ∧ t.cmdReady = false

/-! ### Reset and boot -/

/-- What reset leaves (`10_state.md` R38; all values but the zeroed buffers are the spec's own choice, decisions D17, D18, D23,
D33). -/
def Obligations.ResetStateValues : Prop :=
  (∀ (c : ChipIdx) (d : DigitIdx), Buffer.read State.reset.fb c d = 0 ∧ Buffer.read State.reset.sb c d = 0) ∧
    State.reset.phase = .boot ∧ State.reset.session = .idle ∧ State.reset.fault = false ∧
    State.reset.level = .manual Config.actual.defaultIntensity ∧ State.reset.lastReading = 0 ∧
    State.reset.lastUpdate = 0 ∧ State.reset.wires.serData = false ∧ State.reset.wires.serClk = false ∧
    State.reset.wires.serLoad = true ∧ State.reset.cmdReady = false ∧ State.reset.rspValid = false ∧
    State.reset.trace = []

/-- The `rst` input puts every element of the block at its reset value, FAULT included, and leaves the chips as they are, from
every state between commands (`70_reset_and_hazards.md` R210, `10_state.md` R38; decisions D1, D33). The model's own choice:
`rst` comes before a command that is presented with it, and no step is a reset in the middle of a command (log 17). -/
def Obligations.ResetInputRestoresBlock : Prop :=
  ∀ s : State, s.pins.rst = true →
    ∃ t : State, step s = .next (hostTurn t) ∧ t.chain = s.chain ∧
      (∀ (c : ChipIdx) (d : DigitIdx), Buffer.read t.fb c d = 0 ∧ Buffer.read t.sb c d = 0) ∧
      t.phase = .boot ∧ t.session = .idle ∧ t.fault = false ∧ t.level = .manual Config.actual.defaultIntensity ∧
      t.lastReading = 0 ∧ t.lastUpdate = 0 ∧ t.wires = { serData := false, serClk := false, serLoad := true } ∧
      t.response = none ∧ t.trace = []

/-- Boot, from any state of the chips: the thirteen broadcast frames in order, PHASE <- Run, and every chip with its digit
registers 0, decode off, intensity DEFAULT_INTENSITY, scan-limit 7, test off, out of shutdown; the bus lines end at their
reset levels; nothing else of the block changes but the withdrawn response (log 16) and the model's counter
(`70_reset_and_hazards.md` R212, `10_state.md` R39, `60_exceptions.md` R195, R196; decisions D11, D17, D22, D25). -/
def Obligations.BootConfiguresEveryChip : Prop :=
  ∀ s : State, s.phase = .boot → s.pins.rst = false →
    ∃ t : State, step s = .next (hostTurn t) ∧
      t = { s with phase := .run, response := none, chain := t.chain, trace := t.trace, freeCtr := t.freeCtr
                   wires := { serData := false, serClk := false, serLoad := true } } ∧
      t.trace = s.trace ++ framesEvents
        (([(Config.actual.regDecode, Config.actual.decodeOffVal),
            (Config.actual.regIntensity, Config.actual.defaultIntensity.setWidth 8),
            (Config.actual.regScanlimit, 0x07), (Config.actual.regTest, Config.actual.testOffVal),
            (1, 0), (2, 0), (3, 0), (4, 0), (5, 0), (6, 0), (7, 0), (8, 0),
            (Config.actual.regShutdown, Config.actual.shutdownRunVal)] : List (Byte × Byte)).map fun w _ => w) ∧
      ∀ c : ChipIdx, (∀ k : DigitIdx, (t.chain.get c).dig.get k = 0) ∧
        (t.chain.get c).decode = Config.actual.decodeOffVal ∧
        (t.chain.get c).intensity = Config.actual.defaultIntensity ∧ (t.chain.get c).scanLimit = 0x07 ∧
        (t.chain.get c).test = Config.actual.testOffVal ∧ (t.chain.get c).shutdown = Config.actual.shutdownRunVal

/-! ### FrameBuffer commands -/

/-- SETPX sets or clears the one pixel and changes nothing else; a TESTPX of it right after answers it, without a FLUSH
(`41_framebuffer_ops.md` R110, R111, R112; response codes R86, decision D4). -/
def Obligations.SetpxWritesOnePixel : Prop :=
  ∀ (s : State) (x y : Coord) (b : Bool),
    ∃ t : State, exec (.setpx x y b) s = .next t ∧
      (∀ x' y' : Coord, testPx t.fb x' y' = if x' = x ∧ y' = y then b else testPx s.fb x' y') ∧
      (∀ a : Nat, a ≠ 8 * (toCell x y).chip.val + (toCell x y).digit.val → memRead t.fb a = memRead s.fb a) ∧
      t = { s with fb := t.fb, response := some 0 } ∧
      exec (.testpx x y) t = .next { t with response := some (if b then 1 else 0) }

/-- TESTPX answers the FB bit of the pixel's cell and changes nothing else (`41_framebuffer_ops.md` R112, `40_addressing.md`
R100; response codes R86, decision D4). -/
def Obligations.TestpxAnswersPixel : Prop :=
  ∀ (s : State) (x y : Coord) (c : ChipIdx) (d : DigitIdx),
    c.val = x.val / 8 + 2 * (y.val / 8) → d.val = y.val % 8 →
    ∃ t : State, exec (.testpx x y) s = .next t ∧
      t.response = some (if (Buffer.read s.fb c d).getLsbD (7 - x.val % 8) then 1 else 0) ∧
      t = { s with response := t.response }

/-- CLEAR writes 0x00 to all 32 bytes of FB and changes nothing else, SB included; ISEMPTY then answers 1
(`41_framebuffer_ops.md` R113, R114; response codes R86, decision D4). -/
def Obligations.ClearZeroesFramebuffer : Prop :=
  ∀ s : State,
    ∃ t : State, exec .clear s = .next t ∧ (∀ a : Nat, a < 32 → memRead t.fb a = some 0) ∧
      t = { s with fb := t.fb, response := some 0 } ∧ exec .isempty t = .next { t with response := some 1 }

/-- ISEMPTY answers 1 if every byte of FB is zero and 0 otherwise, and changes nothing else (`41_framebuffer_ops.md` R114;
response codes R86, decision D4). -/
def Obligations.IsemptyAnswersExactly : Prop :=
  ∀ s : State,
    ((∀ (c : ChipIdx) (d : DigitIdx), Buffer.read s.fb c d = 0) →
      exec .isempty s = .next { s with response := some 1 }) ∧
    ((∃ (c : ChipIdx) (d : DigitIdx), Buffer.read s.fb c d ≠ 0) →
      exec .isempty s = .next { s with response := some 0 })

/-- FB as a 32-byte store: a read after a write, and no value outside 0..31 (`20_memory.md` R51; decision D31). -/
def Obligations.FramebufferByteStore : Prop :=
  ∀ (fb : Buffer) (a : Nat) (v : Byte),
    (32 ≤ a → memRead fb a = none ∧ memWrite fb a v = none) ∧
    (∀ (c : ChipIdx) (d : DigitIdx), memRead fb (8 * c.val + d.val) = some (Buffer.read fb c d)) ∧
    (a < 32 → ∃ fb' : Buffer, memWrite fb a v = some fb' ∧ memRead fb' a = some v ∧
      ∀ a' : Nat, a' ≠ a → memRead fb' a' = memRead fb a')

/-! ### SETDIG -/

/-- SETDIG in contract: in the 3x5 cell the glyph's pixels and no others, outside it no change, for every glyph table and
every offset table; the machine's SETDIG is this on its own tables (`43_glyph.md` R143, R145; response codes R86,
decision D4; the tables are parameters, log 8). -/
def Obligations.SetdigDrawsDigit : Prop :=
  ∀ (s : State) (x y : Coord) (d : Fin 16) (p : CellPos) (v : Fin 10),
    p.x.val = x.val → p.y.val = y.val → v.val = d.val →
    exec (.setdig x y d) s = .next (setdig Config.actual x y d s) ∧
      ∀ cfg : Config, DigitDrawn cfg p v s.fb (setdig cfg x y d s).fb ∧
        setdig cfg x y d s = { s with fb := (setdig cfg x y d s).fb, response := some 0 }

/-- SETDIG out of contract takes the fault and changes nothing else: DigitValue when d > 9, CellRange when d ≤ 9 and the cell
does not fit (`43_glyph.md` R144, `30_encoding.md` R85 (3) and (4), `60_exceptions.md` R183; decision D5; the label is
log 13). -/
def Obligations.SetdigOutOfContractFaults : Prop :=
  ∀ (s : State) (x y : Coord) (d : Fin 16),
    (9 < d.val → exec (.setdig x y d) s =
      .next { s with fault := true, faultReason := some .digitValue, response := some 3 }) ∧
    (d.val ≤ 9 → (13 < x.val ∨ 11 < y.val) → exec (.setdig x y d) s =
      .next { s with fault := true, faultReason := some .cellRange, response := some 3 })

/-- The ten digits of the default tables at (0, 0) on an empty FB, row by row (`43_glyph.md` R145, `95_test_vectors.md` V60;
the tables are the spec's defaults, decisions D9, D10, log 8). -/
def Obligations.DefaultDigitShapes : Prop :=
  ∀ d : Fin 10,
    ∃ rows : Vector Byte 5,
      (([#v[0xE0, 0xA0, 0xA0, 0xA0, 0xE0], #v[0x20, 0x20, 0x20, 0x20, 0x20], #v[0xE0, 0x20, 0xE0, 0x80, 0xE0],
          #v[0xE0, 0x20, 0xE0, 0x20, 0xE0], #v[0xA0, 0xA0, 0xE0, 0x20, 0x20], #v[0xE0, 0x80, 0xE0, 0x20, 0xE0],
          #v[0xE0, 0x80, 0xE0, 0xA0, 0xE0], #v[0xE0, 0x20, 0x20, 0x20, 0x20], #v[0xE0, 0xA0, 0xE0, 0xA0, 0xE0],
          #v[0xE0, 0xA0, 0xE0, 0x20, 0xE0]] : List (Vector Byte 5))[d.val]? = some rows) ∧
      drawDigit Config.actual zeroBuffer { x := 0, y := 0 } d =
        #v[#v[rows.get 0, rows.get 1, rows.get 2, rows.get 3, rows.get 4, 0, 0, 0],
          Vector.replicate 8 0, Vector.replicate 8 0, Vector.replicate 8 0]

/-! ### FLUSH -/

/-- FLUSH sends exactly the planned frames, a function of (FB, SB) at its start: frame j carries for each chip its j-th
differing row in increasing order, or the no-operation word; for every configuration, and so for the machine. Nothing of
the block changes but SB, the sequencer, the bus and the response (`42_flush.md` R121, R128; the sequencer's value after it is
free, log 6). -/
def Obligations.FlushSendsPlannedFrames : Prop :=
  (∀ (cfg : Config) (s : State), (flush cfg s).trace = s.trace ++ framesEvents (flushPlan cfg s.fb s.sb)) ∧
    ∀ s : State, ∃ t : State, exec .flush s = .next t ∧
      t.trace = s.trace ++ framesEvents (flushPlan Config.actual s.fb s.sb) ∧
      t.chain = s.chain.onEvents Config.actual (framesEvents (flushPlan Config.actual s.fb s.sb)) ∧
      t = { s with sb := s.fb, seq := t.seq, freeCtr := t.freeCtr, wires := t.wires, chain := t.chain, trace := t.trace,
                   response := some 0 }

/-- After FLUSH, SB = FB and FB is as before; a second FLUSH sends nothing; and if the chips held SB before, every digit
register holds its FB byte after, the chips' other registers being as before (`42_flush.md` R126; what the chips hold is the
device model's, `60_exceptions.md` R194, decision D25, and R196, derived). -/
def Obligations.FlushReconciles : Prop :=
  ∀ s : State, ∃ t u : State, exec .flush s = .next t ∧ t.sb = s.fb ∧ t.fb = s.fb ∧
    exec .flush t = .next u ∧ u.trace = t.trace ∧ u.chain = t.chain ∧ u.sb = t.sb ∧ u.fb = t.fb ∧
    (ChipsHoldSb s → ∀ (c : ChipIdx) (k : DigitIdx), (t.chain.get c).dig.get k = Buffer.read s.fb c k) ∧
    ∀ c : ChipIdx, (t.chain.get c).decode = (s.chain.get c).decode ∧
      (t.chain.get c).scanLimit = (s.chain.get c).scanLimit ∧ (t.chain.get c).shutdown = (s.chain.get c).shutdown ∧
      (t.chain.get c).test = (s.chain.get c).test ∧ (t.chain.get c).intensity = (s.chain.get c).intensity

/-- The frame count of FLUSH is the maximum over the chips of the count of differing rows, at most 8, with 64 bits and one
strobe pulse a frame; of the words, the sum of the counts write digits and the others are no-operations; and no run of
frames of the words the bus may carry reconciles chips that hold SB in fewer (`42_flush.md` R127). -/
def Obligations.FlushFrameCountIsMinimum : Prop :=
  ∀ s : State,
    let n := framesNeeded s.fb s.sb
    let total := (chipIdxs.map fun c => (diffRows s.fb s.sb c).length).sum
    (∃ (t : State) (ws : List FrameWords), exec .flush s = .next t ∧ t.trace = s.trace ++ framesEvents ws ∧
      ws.length = n ∧ n ≤ 8 ∧
      (framesEvents ws).countP (fun e => decide (e = .bit true ∨ e = .bit false)) = 64 * n ∧
      (framesEvents ws).count .strobeLow = n ∧ (framesEvents ws).count .strobeHigh = n ∧
      (ws.flatMap fun w => chipIdxs.map w).countP (fun w => decide (1 ≤ w.1.toNat ∧ w.1.toNat ≤ 8)) = total ∧
      (ws.flatMap fun w => chipIdxs.map w).count (Config.actual.regNoop, Config.actual.noopVal) = 4 * n - total) ∧
    ∀ (c : Chain) (ws : List FrameWords),
      (∀ w ∈ ws, ∀ k : ChipIdx, BusWordAllowed Config.actual (w k)) →
      (∀ (k : ChipIdx) (d : DigitIdx), (c.get k).dig.get d = Buffer.read s.sb k d) →
      (∀ (k : ChipIdx) (d : DigitIdx),
        ((c.onEvents Config.actual (framesEvents ws)).get k).dig.get d = Buffer.read s.fb k d) →
      n ≤ ws.length

/-- Inside FLUSH: the chip whose turn it is gets the word of its next differing row, its SB byte is written at once, before
any strobe, and its search start becomes k+1; with no row left it gets the no-operation word and SB is not touched
(`42_flush.md` R123, R124; the start value is decision D24, the value byte D8). -/
def Obligations.FlushWordUpdatesSbAtOnce : Prop :=
  ∀ (cfg : Config) (s : State) (p : Fin 4) (c : ChipIdx), c.val = 3 - p.val →
    (∀ k : DigitIdx, (s.seq.next.get c).val ≤ k.val → Buffer.read s.fb c k ≠ Buffer.read s.sb c k →
      (∀ j : DigitIdx, (s.seq.next.get c).val ≤ j.val → j < k → Buffer.read s.fb c j = Buffer.read s.sb c j) →
      (flushWord cfg s p).trace = s.trace ++ wordEvents (BitVec.ofNat 8 (k.val + 1), Buffer.read s.fb c k) ∧
      (flushWord cfg s p).sb = Buffer.write s.sb c k (Buffer.read s.fb c k) ∧
      ((flushWord cfg s p).seq.next.get c).val = k.val + 1 ∧ (flushWord cfg s p).fb = s.fb) ∧
    ((∀ k : DigitIdx, (s.seq.next.get c).val ≤ k.val → Buffer.read s.fb c k = Buffer.read s.sb c k) →
      (flushWord cfg s p).trace = s.trace ++ wordEvents (cfg.regNoop, cfg.noopVal) ∧
      (flushWord cfg s p).sb = s.sb ∧ ((flushWord cfg s p).seq.next.get c).val = 8 ∧ (flushWord cfg s p).fb = s.fb)

/-- The monotone search is sound: at every moment inside FLUSH, FB and SB agree below each chip's search start; the start of
FLUSH establishes it, every word and every frame keeps it (`42_flush.md` R129). -/
def Obligations.FlushSearchIsSound : Prop :=
  (∀ s : State, SearchSound (flushStart s) ∧ ∀ c : ChipIdx, ((flushStart s).seq.next.get c).val = 0) ∧
    (∀ (cfg : Config) (s : State) (p : Fin 4), SearchSound s → SearchSound (flushWord cfg s p)) ∧
    ∀ (cfg : Config) (s : State) (f : Fin 8), SearchSound s → SearchSound (flushFrame cfg s f)

/-! ### Brightness -/

/-- Inc (`44_brightness.md` R154). -/
def Obligations.LevelIncrement : Prop :=
  Level.up .auto = .manual 0 ∧ Level.up (.manual 15) = .auto ∧
    (∀ n : BitVec 4, n.toNat ≤ 14 → Level.up (.manual n) = .manual (n + 1)) ∧
    ∀ l : Level, (Level.up l).code.toNat = (l.code.toNat + 1) % 17

/-- Dec, its code form, that it undoes Inc and is undone by it, that seventeen increments return to the start, and the
sequence of LM's test (`44_brightness.md` R155). -/
def Obligations.LevelDecrement : Prop :=
  Level.down (.manual 0) = .auto ∧ Level.down .auto = .manual 15 ∧
    (∀ n : BitVec 4, 1 ≤ n.toNat → Level.down (.manual n) = .manual (n - 1)) ∧
    (∀ l : Level, (Level.down l).code.toNat = (l.code.toNat + 16) % 17) ∧
    (∀ l : Level, Level.down (Level.up l) = l ∧ Level.up (Level.down l) = l) ∧
    (∀ l : Level, Nat.iterate Level.up 17 l = l) ∧
    Level.up (Level.up .auto) = .manual 1

/-- BEGINADJ from Idle opens the session, sets the markers and, when the level is manual, shows it; while Adjusting it is
ignored (`44_brightness.md` R151, R152, R157; decisions D12, D13, D16, D28; parameters log 8). -/
def Obligations.BeginadjOpensSession : Prop :=
  ∀ s : State,
    (s.session = .idle → ∃ t : State, exec .beginadj s = .next t ∧
      (∃ mid : Buffer, MarkersSet Config.actual s.fb mid ∧
        ((s.level = .auto ∧ t.fb = mid) ∨ (s.level ≠ .auto ∧ LevelShown Config.actual s.level mid t.fb))) ∧
      t = { s with session := .adjusting, fb := t.fb, response := some 1 }) ∧
    (s.session = .adjusting → exec .beginadj s = .next { s with response := some 0 })

/-- STEPADJ, row by row of the session machine: ignored in Idle, unchanged with no event, finished on confirm; on increment
and decrement the new level, its digits (or the cleared cells), and for a manual level one intensity frame that every chip
takes, after which the clock is low and the strobe high (ser_data is open, log 20) (`44_brightness.md` R151, R153 to R157;
decisions D13, D14, D16, D28; MANUAL_PUSH is on by default, log 8). -/
def Obligations.StepadjTransitions : Prop :=
  ∀ s : State,
    (s.session = .idle → ∀ ev : Event, exec (.stepadj ev) s = .next { s with response := some 0 }) ∧
    (s.session = .adjusting →
      exec (.stepadj .none) s = .next { s with response := some 0 } ∧
      exec (.stepadj .confirm) s = .next { s with session := .idle, response := some 2 } ∧
      ∀ ev : Event, ev = .inc ∨ ev = .dec →
        ∃ t : State, exec (.stepadj ev) s = .next t ∧
          t.level = (if ev = .inc then Level.up s.level else Level.down s.level) ∧
          LevelShown Config.actual t.level s.fb t.fb ∧
          (t.level = .auto → t.trace = s.trace ∧ t.chain = s.chain ∧ t.wires = s.wires ∧ t.freeCtr = s.freeCtr) ∧
          (∀ n : BitVec 4, t.level = .manual n →
            t.trace = s.trace ++ framesEvents [fun _ => (Config.actual.regIntensity, n.setWidth 8)] ∧
            (∀ c : ChipIdx, t.chain.get c = { s.chain.get c with sr := (t.chain.get c).sr, intensity := n }) ∧
            LinesAtRest t) ∧
          t = { s with level := t.level, fb := t.fb, trace := t.trace, chain := t.chain, wires := t.wires,
                       freeCtr := t.freeCtr, response := some 1 })

/-- With MANUAL_PUSH off, the literal reading of the source, no STEPADJ uses the bus: trace, chips, lines and the model's
counter stay; everything else of the state, SESSION and the response among it, is as with MANUAL_PUSH on
(`44_brightness.md` R156, `95_test_vectors.md` V47; decision D14). -/
def Obligations.StepadjWithoutPush : Prop :=
  ∀ (cfg : Config) (ev : Event) (s : State), cfg.manualPush = false →
    stepadj cfg ev s =
      { stepadj { cfg with manualPush := true } ev s with
          trace := s.trace, chain := s.chain, wires := s.wires, freeCtr := s.freeCtr }

/-- POLLAUTO always completes: in automatic mode, with the interval passed (≥) and the reading changed by more than the
threshold (>), one intensity frame with the mapped reading, which every chip takes and after which the clock is low and the
strobe high (ser_data is open, log 20), and the reading and time recorded; otherwise nothing but the response. Said of the
machine, and of every configuration, since the machine's interval, threshold and sensor range are OPEN (`44_brightness.md`
R160 to R162; decisions D11, D19 to D21, D29; log 9, log 10). -/
def Obligations.PollautoUpdates : Prop :=
  (∀ s : State, ∃ t : State, exec .pollauto s = .next t ∧ t = pollauto Config.actual s ∧
    PollEffect Config.actual s t) ∧
  ∀ (cfg : Config) (s : State), cfg.wf = true → PollEffect cfg s (pollauto cfg s)

/-- SensorMap is the clamped linear map on mathematical integers: for every sensor range it is the formula of R161 and lies in
0..15; SENSOR_LO maps to 0 and SENSOR_HI to 15; a rising range gives a rising map and a falling range a falling one
(`44_brightness.md` R161; decision D19). -/
def Obligations.SensorMapIsLinear : Prop :=
  ∀ (cfg : Config),
    (∀ r : Nat, ((sensorMap cfg r).toNat : Int) =
      min 15 (max 0 ((((r : Int) - cfg.sensorRange.lo) * 15).tdiv
        (cfg.sensorRange.hi - cfg.sensorRange.lo)))) ∧
    cfg.sensorRange.hi ≠ cfg.sensorRange.lo ∧
    (∀ r : Nat, (r : Int) = cfg.sensorRange.lo → sensorMap cfg r = 0) ∧
    (∀ r : Nat, (r : Int) = cfg.sensorRange.hi → sensorMap cfg r = 15) ∧
    ∀ r q : Nat, r ≤ q →
      (cfg.sensorRange.lo < cfg.sensorRange.hi → (sensorMap cfg r).toNat ≤ (sensorMap cfg q).toNat) ∧
      (cfg.sensorRange.hi < cfg.sensorRange.lo → (sensorMap cfg q).toNat ≤ (sensorMap cfg r).toNat)

/-- Hysteresis, for every configuration and so for the machine: let a poll update at reading R and time T, and let a later
state in automatic mode still hold that reading and that time as the recorded ones. There a poll within the threshold causes
no frame and records nothing; a poll before the interval has passed is dropped and not remembered; a poll beyond the
threshold after the interval updates (`44_brightness.md` R163, with the update test and its frame as R160 to R162 have them:
the gap modulo 2^TICK_W is decision D21, the mapped reading D19, the broadcast D11, the ports D29; log 10). -/
def Obligations.AutomaticHysteresis : Prop :=
  (∀ s : State, exec .pollauto s = .next (pollauto Config.actual s)) ∧
  ∀ (cfg : Config) (s later : State), PollDue cfg s → later.level = .auto →
    later.lastReading = (pollauto cfg s).lastReading → later.lastUpdate = (pollauto cfg s).lastUpdate →
    let reading (u : State) : Nat := u.pins.sensorIn % 2 ^ cfg.sensorW
    let now (u : State) : Nat := u.pins.tickIn % 2 ^ cfg.tickW
    let change : Int := |(reading later : Int) - reading s|
    let gap : Int := ((now later : Int) - now s) % (2 ^ cfg.tickW : Nat)
    (change ≤ cfg.autoThreshold → pollauto cfg later = { later with response := some 0 }) ∧
    (gap < cfg.autoInterval → pollauto cfg later = { later with response := some 0 }) ∧
    ((cfg.autoThreshold : Int) < change → (cfg.autoInterval : Int) ≤ gap →
      (pollauto cfg later).trace = later.trace ++ framesEvents
        [fun _ => (cfg.regIntensity, (sensorMap cfg (reading later)).setWidth 8)] ∧
      (pollauto cfg later).lastReading = reading later ∧
      (pollauto cfg later).lastUpdate = now later)

/-! ### System commands -/

/-- SETTEST sends one broadcast frame to the test register, which every chip takes and after which the clock is low and the
strobe high (ser_data is open, log 20), and changes nothing else of the block but the response (`45_system.md` R171;
decisions D11, D26). -/
def Obligations.SettestWritesTestRegister : Prop :=
  ∀ (s : State) (b : Bool),
    ∃ t : State, exec (.settest b) s = .next t ∧
      t.trace = s.trace ++ framesEvents
        [fun _ => (Config.actual.regTest, if b then Config.actual.testOnVal else Config.actual.testOffVal)] ∧
      (∀ c : ChipIdx, t.chain.get c =
        { s.chain.get c with
            sr := (t.chain.get c).sr
            test := if b then Config.actual.testOnVal else Config.actual.testOffVal }) ∧
      LinesAtRest t ∧
      t = { s with trace := t.trace, chain := t.chain, wires := t.wires, freeCtr := t.freeCtr, response := some 0 }

/-- DUMP answers 0 and changes nothing (`45_system.md` R172; decision D27). -/
def Obligations.DumpChangesNothing : Prop :=
  ∀ s : State, exec .dump s = .next { s with response := some 0 }

/-! ### Addressing -/

/-- toCell, as numbers, in bits, and its worked example (`40_addressing.md` R100). -/
def Obligations.ToCellFormula : Prop :=
  (∀ x y : Coord, (toCell x y).chip.val = x.val / 8 + 2 * (y.val / 8) ∧ (toCell x y).digit.val = y.val % 8 ∧
    (toCell x y).segment.val = 7 - x.val % 8) ∧
  (∀ x y : BitVec 4,
    BitVec.ofFin (w := 2) (toCell x.toFin y.toFin).chip = BitVec.ofBool (y.getLsbD 3) ++ BitVec.ofBool (x.getLsbD 3) ∧
    BitVec.ofFin (w := 3) (toCell x.toFin y.toFin).digit = y.extractLsb' 0 3 ∧
    BitVec.ofFin (w := 3) (toCell x.toFin y.toFin).segment = ~~~ x.extractLsb' 0 3) ∧
  toCell 9 2 = { chip := 1, digit := 2, segment := 6 }

/-- The mapping is a bijection of the 256 coordinates and the 256 cells; which coordinates each chip holds; and a digit
register is one row of eight horizontally adjacent pixels, the lowest x in bit 7 (`40_addressing.md` R102). -/
def Obligations.ToCellBijective : Prop :=
  (∀ x y : Coord, fromCell (toCell x y) = (x, y)) ∧
  (∀ k : Cell, toCell (fromCell k).1 (fromCell k).2 = k) ∧
  (∀ x y x' y' : Coord, (x, y) ≠ (x', y') → toCell x y ≠ toCell x' y') ∧
  (∀ x y : Coord, ((toCell x y).chip = 0 ↔ x.val ≤ 7 ∧ y.val ≤ 7) ∧ ((toCell x y).chip = 1 ↔ 8 ≤ x.val ∧ y.val ≤ 7) ∧
    ((toCell x y).chip = 2 ↔ x.val ≤ 7 ∧ 8 ≤ y.val) ∧ ((toCell x y).chip = 3 ↔ 8 ≤ x.val ∧ 8 ≤ y.val)) ∧
  (∀ x y : Coord, x.val % 8 = 0 → (toCell x y).segment = 7 ∧
    ∀ x' : Coord, ∀ j : Fin 8, x'.val = x.val + j.val →
      (toCell x' y).chip = (toCell x y).chip ∧ (toCell x' y).digit = (toCell x y).digit ∧
      (toCell x' y).segment.val = 7 - j.val)

/-- Outside 0..15 the mapping has no value (`40_addressing.md` R103; decision D6). -/
def Obligations.ToCellRefusesOutOfRange : Prop :=
  ∀ x y : Nat, (toCellNat x y = none ↔ (16 ≤ x ∨ 16 ≤ y)) ∧
    ∀ x' y' : Coord, x'.val = x → y'.val = y → toCellNat x y = some (toCell x' y')

/-! ### The bus and the chain -/

/-- A word is sixteen bits, the register byte's bit 7 first, the value byte's bit 0 last, and nothing between
(`20_memory.md` R59). -/
def Obligations.WordIsSixteenBits : Prop :=
  ∀ reg val : Byte, wordEvents (reg, val) =
    [.bit (reg.getLsbD 7), .bit (reg.getLsbD 6), .bit (reg.getLsbD 5), .bit (reg.getLsbD 4), .bit (reg.getLsbD 3),
      .bit (reg.getLsbD 2), .bit (reg.getLsbD 1), .bit (reg.getLsbD 0), .bit (val.getLsbD 7), .bit (val.getLsbD 6),
      .bit (val.getLsbD 5), .bit (val.getLsbD 4), .bit (val.getLsbD 3), .bit (val.getLsbD 2), .bit (val.getLsbD 1),
      .bit (val.getLsbD 0)]

/-- A frame is the words for chips 3, 2, 1, 0 in that order and then one strobe pulse: 64 bits then one pulse
(`20_memory.md` R61). -/
def Obligations.FrameIsFourWordsAndStrobe : Prop :=
  ∀ w : FrameWords,
    frameEvents w = wordEvents (w 3) ++ wordEvents (w 2) ++ wordEvents (w 1) ++ wordEvents (w 0) ++
      [.strobeLow, .strobeHigh] ∧
    ∃ bits : List Bool, bits.length = 64 ∧ frameEvents w = bits.map .bit ++ [.strobeLow, .strobeHigh]

/-- The chain is one 64-bit shift register, chip 3 at its high end, and a bit changes nothing else in a chip
(`60_exceptions.md` R193; decision D25). -/
def Obligations.ChainShiftsAsOneRegister : Prop :=
  ∀ (cfg : Config) (c : Chain) (b : Bool),
    let after := c.onEvents cfg [.bit b]
    ((after.get 3).sr ++ (after.get 2).sr ++ (after.get 1).sr ++ (after.get 0).sr : BitVec 64) =
      BitVec.shiftConcat (n := 64) ((c.get 3).sr ++ (c.get 2).sr ++ (c.get 1).sr ++ (c.get 0).sr : BitVec 64) b ∧
    ∀ k : ChipIdx, after.get k = { c.get k with sr := (after.get k).sr }

/-- Delivery: from any chain state a frame leaves its word in every chip's shift register and each chip performs exactly the
write its own word names (`60_exceptions.md` R192, R194, R196, `20_memory.md` R61, R62; decisions D7, D25). -/
def Obligations.FrameDelivers : Prop :=
  ∀ (cfg : Config) (c : Chain) (w : FrameWords) (k : ChipIdx) (v : Byte), cfg.wf = true →
    let before := { c.get k with sr := (w k).1 ++ (w k).2 }
    let after := (c.onEvents cfg (frameEvents w)).get k
    after.sr = (w k).1 ++ (w k).2 ∧
    (∀ d : DigitIdx, w k = (BitVec.ofNat 8 (d.val + 1), v) →
      after = { before with dig := (c.get k).dig.set d.val v }) ∧
    (w k = (cfg.regDecode, v) → after = { before with decode := v }) ∧
    (w k = (cfg.regIntensity, v) → after = { before with intensity := v.extractLsb' 0 4 }) ∧
    (w k = (cfg.regScanlimit, v) → after = { before with scanLimit := v }) ∧
    (w k = (cfg.regShutdown, v) → after = { before with shutdown := v }) ∧
    (w k = (cfg.regTest, v) → after = { before with test := v }) ∧
    (w k = (cfg.regNoop, v) → after = before)

/-- Every command's bus traffic is whole frames, at most eight, of the words R87 lists (`20_memory.md` R57, `30_encoding.md`
R87, `70_reset_and_hazards.md` R230). -/
def Obligations.BusCarriesWholeFrames : Prop :=
  ∀ (i : Instr) (s t : State), exec i s = .next t →
    ∃ ws : List FrameWords, t.trace = s.trace ++ framesEvents ws ∧ ws.length ≤ 8 ∧
      (∀ w ∈ ws, ∀ c : ChipIdx, BusWordAllowed Config.actual (w c)) ∧
      (ws ≠ [] → i = .flush ∨ i = .stepadj .inc ∨ i = .stepadj .dec ∨ i = .pollauto ∨ ∃ b, i = .settest b) ∧
      t.chain = s.chain.onEvents Config.actual (framesEvents ws)

/-- What the LEDs show after a FLUSH in the state that boot leaves: at every pixel exactly FB (`20_memory.md` R72,
`42_flush.md` R126, `60_exceptions.md` R196, R197). -/
def Obligations.LedsShowFramebufferAfterFlush : Prop :=
  ∀ s : State, Inv Config.actual s → Running s → (∀ c : ChipIdx, (s.chain.get c).test = Config.actual.testOffVal) →
    ∃ t : State, exec .flush s = .next t ∧
      ∀ x y : Coord, litPixel Config.actual t.chain x y = some (testPx s.fb x y)

/-! ### Invariants and whole-machine rules -/

/-- The machine right after reset meets the invariant, on its own configuration and on every other (`10_state.md` R24, R38;
the chips' values at reset are log 4, and the invariant says nothing of them before boot). -/
def Obligations.ResetMeetsInvariant : Prop :=
  Inv Config.actual State.reset ∧ ∀ cfg : Config, Inv cfg (State.resetOn cfg)

/-- Every step keeps the invariant: reset, boot, every command and every fault; on the machine's configuration and on every
well-formed one with MANUAL_PUSH. In particular after boot every digit register of every chip holds SB whenever the block is
between commands, in manual mode the chips' intensity is LEVEL, and the recorded reading and time fit their widths
(`10_state.md` R24 (a), R31 to R33, R39; MANUAL_PUSH is on by default, decision D14, log 8). -/
def Obligations.StepKeepsInvariant : Prop :=
  (∀ s t : State, Inv Config.actual s → step s = .next t → Inv Config.actual t) ∧
    ∀ (cfg : Config) (s t : State), cfg.wf = true → cfg.manualPush = true → Inv cfg s → stepOn cfg s = .next t → Inv cfg t

/-- Which commands may change each register: the writers of FB, SB, SESSION, LEVEL, LAST_READING, LAST_UPDATE, FAULT, the
sequencer, the bus; no command changes PHASE or the host's pins (`10_state.md` R22, R23, R26, R28 to R32, R36,
`20_memory.md` R57). -/
def Obligations.RegistersHaveTheirWriters : Prop :=
  ∀ (i : Instr) (s t : State), exec i s = .next t →
    t.phase = s.phase ∧ t.pins = s.pins ∧ t.hostPlan = s.hostPlan ∧
    (t.fb ≠ s.fb → (∃ x y b, i = .setpx x y b) ∨ (∃ x y d, i = .setdig x y d) ∨ i = .clear ∨ i = .beginadj ∨
      i = .stepadj .inc ∨ i = .stepadj .dec) ∧
    (t.sb ≠ s.sb → i = .flush) ∧ (t.seq ≠ s.seq → i = .flush) ∧
    (t.session ≠ s.session → i = .beginadj ∨ i = .stepadj .confirm) ∧
    (t.level ≠ s.level → i = .stepadj .inc ∨ i = .stepadj .dec) ∧
    (t.lastReading ≠ s.lastReading ∨ t.lastUpdate ≠ s.lastUpdate → i = .pollauto) ∧
    (t.fault ≠ s.fault ∨ t.faultReason ≠ s.faultReason → ∃ x y d, i = .setdig x y d) ∧
    (t.trace ≠ s.trace ∨ t.chain ≠ s.chain ∨ t.wires ≠ s.wires ∨ t.freeCtr ≠ s.freeCtr →
      i = .flush ∨ i = .stepadj .inc ∨ i = .stepadj .dec ∨ i = .pollauto ∨ ∃ b, i = .settest b)

/-- Every command completes with exactly one response, and the response is 3 exactly when the command is out of contract
(`30_encoding.md` R86, `60_exceptions.md` R180; decisions D4, D5). -/
def Obligations.EveryCommandResponds : Prop :=
  ∀ (i : Instr) (s : State), ∃ (t : State) (code : BitVec 2), exec i s = .next t ∧ t.response = some code ∧
    (code = 3 ↔ i.wf = false)

/-- The bus is write-only: a step of the block does not depend on the chips, whatever they hold (`20_memory.md` R56,
`42_flush.md` R131). -/
def Obligations.BlockNeverReadsChips : Prop :=
  ∀ (s : State) (c : Chain), ∃ c' : Chain,
    step { s with chain := c } = mapNext (fun t => { t with chain := c' }) (step s)

/-- The bus trace is an observation: what a command does depends neither on the trace nor on the model's fault label, and it
only adds to the trace (`00_scope.md` R7; the fields are log 12, log 13). -/
def Obligations.TraceIsObservationOnly : Prop :=
  ∀ (i : Instr) (s t : State), exec i s = .next t →
    ∃ es : List BusEvent, t.trace = s.trace ++ es ∧
      ∀ (tr : List BusEvent) (r : Option FaultReason), ∃ r' : Option FaultReason,
        exec i { s with trace := tr, faultReason := r } = .next { t with trace := tr ++ es, faultReason := r' }

/-- SB is hidden: every command but FLUSH behaves the same whatever SB holds, and leaves it (`10_state.md` R23). -/
def Obligations.ShadowBufferIsHidden : Prop :=
  ∀ (i : Instr) (s : State) (b : Buffer), i ≠ .flush →
    exec i { s with sb := b } = mapNext (fun t => { t with sb := b }) (exec i s)

/-- The session gates nothing else: every command but BEGINADJ and STEPADJ behaves the same in both session states
(`10_state.md` R28, `44_brightness.md` R158). -/
def Obligations.SessionGatesNothingElse : Prop :=
  ∀ (i : Instr) (s : State) (x : Session), i ≠ .beginadj → (∀ ev, i ≠ .stepadj ev) →
    exec i { s with session := x } = mapNext (fun t => { t with session := x }) (exec i s)

/-- Idempotent commands: SETPX, TESTPX, SETDIG, CLEAR and ISEMPTY issued twice in a row do what they do once (`20_memory.md`
R65). -/
def Obligations.IdempotentCommands : Prop :=
  ∀ (i : Instr) (s t : State),
    (∃ x y b, i = .setpx x y b) ∨ (∃ x y, i = .testpx x y) ∨ (∃ x y d, i = .setdig x y d) ∨ i = .clear ∨
      i = .isempty →
    exec i s = .next t → exec i t = .next t

/-! ### The bus lines, and the configuration -/

/-- What a bus event leaves on the three lines: a bit is on ser_data, the clock is back low and the strobe as it was, so high
during all shifting; the strobe events move the strobe and not the clock; a whole frame leaves the clock low and the strobe
high (`20_memory.md` R58, R60, `10_state.md` R35; decision D23). What ser_data holds after a strobe event is open, and nothing is
said of it (log 20). -/
def Obligations.BusEventsDriveLines : Prop :=
  ∀ (cfg : Config) (s : State),
    (∀ b : Bool, (s.emit cfg [.bit b]).wires = { serData := b, serClk := false, serLoad := s.wires.serLoad }) ∧
    (∀ bs : List Bool, (s.emit cfg (bs.map .bit)).wires.serLoad = s.wires.serLoad) ∧
    (s.emit cfg [.strobeLow]).wires =
      { s.wires with serData := (s.emit cfg [.strobeLow]).wires.serData, serLoad := false } ∧
    (s.emit cfg [.strobeHigh]).wires =
      { s.wires with serData := (s.emit cfg [.strobeHigh]).wires.serData, serLoad := true } ∧
    ∀ w : FrameWords, LinesAtRest (s.emit cfg (frameEvents w))

/-- Each parameter is an argument of the model (`00_scope.md` R4): the machine behind the host's interface is the machine on
any configuration, taken at its own (log 8, log 9). -/
def Obligations.MachineIsOnItsConfiguration : Prop :=
  (∀ (i : Instr) (s : State), exec i s = .next (execOn Config.actual i s)) ∧
    (∀ s : State, step s = stepOn Config.actual s) ∧ State.reset = State.resetOn Config.actual
end

