-- ==== Sys2Proof/Laws/State.lean ====
section
/-! SUPPORT. One lemma per field and update of `State`, true by computation, so that no proof unfolds a record update;
then extensionality of `State`. -/

namespace Sys2Proof.Machine

variable (s : State)

/-! ### setFb -/

@[simp] theorem State.setFb_fb (b : Buffer) : (s.setFb b).fb = b := rfl
@[simp] theorem State.setFb_sb (b : Buffer) : (s.setFb b).sb = s.sb := rfl
@[simp] theorem State.setFb_phase (b : Buffer) : (s.setFb b).phase = s.phase := rfl
@[simp] theorem State.setFb_session (b : Buffer) : (s.setFb b).session = s.session := rfl
@[simp] theorem State.setFb_fault (b : Buffer) : (s.setFb b).fault = s.fault := rfl
@[simp] theorem State.setFb_level (b : Buffer) : (s.setFb b).level = s.level := rfl
@[simp] theorem State.setFb_lastReading (b : Buffer) : (s.setFb b).lastReading = s.lastReading := rfl
@[simp] theorem State.setFb_lastUpdate (b : Buffer) : (s.setFb b).lastUpdate = s.lastUpdate := rfl
@[simp] theorem State.setFb_seq (b : Buffer) : (s.setFb b).seq = s.seq := rfl
@[simp] theorem State.setFb_wires (b : Buffer) : (s.setFb b).wires = s.wires := rfl
@[simp] theorem State.setFb_response (b : Buffer) : (s.setFb b).response = s.response := rfl
@[simp] theorem State.setFb_pins (b : Buffer) : (s.setFb b).pins = s.pins := rfl
@[simp] theorem State.setFb_hostPlan (b : Buffer) : (s.setFb b).hostPlan = s.hostPlan := rfl
@[simp] theorem State.setFb_chain (b : Buffer) : (s.setFb b).chain = s.chain := rfl
@[simp] theorem State.setFb_trace (b : Buffer) : (s.setFb b).trace = s.trace := rfl
@[simp] theorem State.setFb_faultReason (b : Buffer) : (s.setFb b).faultReason = s.faultReason := rfl
@[simp] theorem State.setFb_freeCtr (b : Buffer) : (s.setFb b).freeCtr = s.freeCtr := rfl

/-! ### setSb -/

@[simp] theorem State.setSb_fb (b : Buffer) : (s.setSb b).fb = s.fb := rfl
@[simp] theorem State.setSb_sb (b : Buffer) : (s.setSb b).sb = b := rfl
@[simp] theorem State.setSb_phase (b : Buffer) : (s.setSb b).phase = s.phase := rfl
@[simp] theorem State.setSb_session (b : Buffer) : (s.setSb b).session = s.session := rfl
@[simp] theorem State.setSb_fault (b : Buffer) : (s.setSb b).fault = s.fault := rfl
@[simp] theorem State.setSb_level (b : Buffer) : (s.setSb b).level = s.level := rfl
@[simp] theorem State.setSb_lastReading (b : Buffer) : (s.setSb b).lastReading = s.lastReading := rfl
@[simp] theorem State.setSb_lastUpdate (b : Buffer) : (s.setSb b).lastUpdate = s.lastUpdate := rfl
@[simp] theorem State.setSb_seq (b : Buffer) : (s.setSb b).seq = s.seq := rfl
@[simp] theorem State.setSb_wires (b : Buffer) : (s.setSb b).wires = s.wires := rfl
@[simp] theorem State.setSb_response (b : Buffer) : (s.setSb b).response = s.response := rfl
@[simp] theorem State.setSb_pins (b : Buffer) : (s.setSb b).pins = s.pins := rfl
@[simp] theorem State.setSb_hostPlan (b : Buffer) : (s.setSb b).hostPlan = s.hostPlan := rfl
@[simp] theorem State.setSb_chain (b : Buffer) : (s.setSb b).chain = s.chain := rfl
@[simp] theorem State.setSb_trace (b : Buffer) : (s.setSb b).trace = s.trace := rfl
@[simp] theorem State.setSb_faultReason (b : Buffer) : (s.setSb b).faultReason = s.faultReason := rfl
@[simp] theorem State.setSb_freeCtr (b : Buffer) : (s.setSb b).freeCtr = s.freeCtr := rfl

/-! ### setPhase -/

@[simp] theorem State.setPhase_fb (p : Phase) : (s.setPhase p).fb = s.fb := rfl
@[simp] theorem State.setPhase_sb (p : Phase) : (s.setPhase p).sb = s.sb := rfl
@[simp] theorem State.setPhase_phase (p : Phase) : (s.setPhase p).phase = p := rfl
@[simp] theorem State.setPhase_session (p : Phase) : (s.setPhase p).session = s.session := rfl
@[simp] theorem State.setPhase_fault (p : Phase) : (s.setPhase p).fault = s.fault := rfl
@[simp] theorem State.setPhase_level (p : Phase) : (s.setPhase p).level = s.level := rfl
@[simp] theorem State.setPhase_lastReading (p : Phase) : (s.setPhase p).lastReading = s.lastReading := rfl
@[simp] theorem State.setPhase_lastUpdate (p : Phase) : (s.setPhase p).lastUpdate = s.lastUpdate := rfl
@[simp] theorem State.setPhase_seq (p : Phase) : (s.setPhase p).seq = s.seq := rfl
@[simp] theorem State.setPhase_wires (p : Phase) : (s.setPhase p).wires = s.wires := rfl
@[simp] theorem State.setPhase_response (p : Phase) : (s.setPhase p).response = s.response := rfl
@[simp] theorem State.setPhase_pins (p : Phase) : (s.setPhase p).pins = s.pins := rfl
@[simp] theorem State.setPhase_hostPlan (p : Phase) : (s.setPhase p).hostPlan = s.hostPlan := rfl
@[simp] theorem State.setPhase_chain (p : Phase) : (s.setPhase p).chain = s.chain := rfl
@[simp] theorem State.setPhase_trace (p : Phase) : (s.setPhase p).trace = s.trace := rfl
@[simp] theorem State.setPhase_faultReason (p : Phase) : (s.setPhase p).faultReason = s.faultReason := rfl
@[simp] theorem State.setPhase_freeCtr (p : Phase) : (s.setPhase p).freeCtr = s.freeCtr := rfl

/-! ### setSession -/

@[simp] theorem State.setSession_fb (x : Session) : (s.setSession x).fb = s.fb := rfl
@[simp] theorem State.setSession_sb (x : Session) : (s.setSession x).sb = s.sb := rfl
@[simp] theorem State.setSession_phase (x : Session) : (s.setSession x).phase = s.phase := rfl
@[simp] theorem State.setSession_session (x : Session) : (s.setSession x).session = x := rfl
@[simp] theorem State.setSession_fault (x : Session) : (s.setSession x).fault = s.fault := rfl
@[simp] theorem State.setSession_level (x : Session) : (s.setSession x).level = s.level := rfl
@[simp] theorem State.setSession_lastReading (x : Session) : (s.setSession x).lastReading = s.lastReading := rfl
@[simp] theorem State.setSession_lastUpdate (x : Session) : (s.setSession x).lastUpdate = s.lastUpdate := rfl
@[simp] theorem State.setSession_seq (x : Session) : (s.setSession x).seq = s.seq := rfl
@[simp] theorem State.setSession_wires (x : Session) : (s.setSession x).wires = s.wires := rfl
@[simp] theorem State.setSession_response (x : Session) : (s.setSession x).response = s.response := rfl
@[simp] theorem State.setSession_pins (x : Session) : (s.setSession x).pins = s.pins := rfl
@[simp] theorem State.setSession_hostPlan (x : Session) : (s.setSession x).hostPlan = s.hostPlan := rfl
@[simp] theorem State.setSession_chain (x : Session) : (s.setSession x).chain = s.chain := rfl
@[simp] theorem State.setSession_trace (x : Session) : (s.setSession x).trace = s.trace := rfl
@[simp] theorem State.setSession_faultReason (x : Session) : (s.setSession x).faultReason = s.faultReason := rfl
@[simp] theorem State.setSession_freeCtr (x : Session) : (s.setSession x).freeCtr = s.freeCtr := rfl

/-! ### latchFault -/

@[simp] theorem State.latchFault_fb (r : FaultReason) : (s.latchFault r).fb = s.fb := rfl
@[simp] theorem State.latchFault_sb (r : FaultReason) : (s.latchFault r).sb = s.sb := rfl
@[simp] theorem State.latchFault_phase (r : FaultReason) : (s.latchFault r).phase = s.phase := rfl
@[simp] theorem State.latchFault_session (r : FaultReason) : (s.latchFault r).session = s.session := rfl
@[simp] theorem State.latchFault_fault (r : FaultReason) : (s.latchFault r).fault = true := rfl
@[simp] theorem State.latchFault_level (r : FaultReason) : (s.latchFault r).level = s.level := rfl
@[simp] theorem State.latchFault_lastReading (r : FaultReason) : (s.latchFault r).lastReading = s.lastReading := rfl
@[simp] theorem State.latchFault_lastUpdate (r : FaultReason) : (s.latchFault r).lastUpdate = s.lastUpdate := rfl
@[simp] theorem State.latchFault_seq (r : FaultReason) : (s.latchFault r).seq = s.seq := rfl
@[simp] theorem State.latchFault_wires (r : FaultReason) : (s.latchFault r).wires = s.wires := rfl
@[simp] theorem State.latchFault_response (r : FaultReason) : (s.latchFault r).response = s.response := rfl
@[simp] theorem State.latchFault_pins (r : FaultReason) : (s.latchFault r).pins = s.pins := rfl
@[simp] theorem State.latchFault_hostPlan (r : FaultReason) : (s.latchFault r).hostPlan = s.hostPlan := rfl
@[simp] theorem State.latchFault_chain (r : FaultReason) : (s.latchFault r).chain = s.chain := rfl
@[simp] theorem State.latchFault_trace (r : FaultReason) : (s.latchFault r).trace = s.trace := rfl
@[simp] theorem State.latchFault_faultReason (r : FaultReason) : (s.latchFault r).faultReason = some r := rfl
@[simp] theorem State.latchFault_freeCtr (r : FaultReason) : (s.latchFault r).freeCtr = s.freeCtr := rfl

/-! ### setLevel -/

@[simp] theorem State.setLevel_fb (l : Level) : (s.setLevel l).fb = s.fb := rfl
@[simp] theorem State.setLevel_sb (l : Level) : (s.setLevel l).sb = s.sb := rfl
@[simp] theorem State.setLevel_phase (l : Level) : (s.setLevel l).phase = s.phase := rfl
@[simp] theorem State.setLevel_session (l : Level) : (s.setLevel l).session = s.session := rfl
@[simp] theorem State.setLevel_fault (l : Level) : (s.setLevel l).fault = s.fault := rfl
@[simp] theorem State.setLevel_level (l : Level) : (s.setLevel l).level = l := rfl
@[simp] theorem State.setLevel_lastReading (l : Level) : (s.setLevel l).lastReading = s.lastReading := rfl
@[simp] theorem State.setLevel_lastUpdate (l : Level) : (s.setLevel l).lastUpdate = s.lastUpdate := rfl
@[simp] theorem State.setLevel_seq (l : Level) : (s.setLevel l).seq = s.seq := rfl
@[simp] theorem State.setLevel_wires (l : Level) : (s.setLevel l).wires = s.wires := rfl
@[simp] theorem State.setLevel_response (l : Level) : (s.setLevel l).response = s.response := rfl
@[simp] theorem State.setLevel_pins (l : Level) : (s.setLevel l).pins = s.pins := rfl
@[simp] theorem State.setLevel_hostPlan (l : Level) : (s.setLevel l).hostPlan = s.hostPlan := rfl
@[simp] theorem State.setLevel_chain (l : Level) : (s.setLevel l).chain = s.chain := rfl
@[simp] theorem State.setLevel_trace (l : Level) : (s.setLevel l).trace = s.trace := rfl
@[simp] theorem State.setLevel_faultReason (l : Level) : (s.setLevel l).faultReason = s.faultReason := rfl
@[simp] theorem State.setLevel_freeCtr (l : Level) : (s.setLevel l).freeCtr = s.freeCtr := rfl

/-! ### recordAuto -/

@[simp] theorem State.recordAuto_fb (r t : Nat) : (s.recordAuto r t).fb = s.fb := rfl
@[simp] theorem State.recordAuto_sb (r t : Nat) : (s.recordAuto r t).sb = s.sb := rfl
@[simp] theorem State.recordAuto_phase (r t : Nat) : (s.recordAuto r t).phase = s.phase := rfl
@[simp] theorem State.recordAuto_session (r t : Nat) : (s.recordAuto r t).session = s.session := rfl
@[simp] theorem State.recordAuto_fault (r t : Nat) : (s.recordAuto r t).fault = s.fault := rfl
@[simp] theorem State.recordAuto_level (r t : Nat) : (s.recordAuto r t).level = s.level := rfl
@[simp] theorem State.recordAuto_lastReading (r t : Nat) : (s.recordAuto r t).lastReading = r := rfl
@[simp] theorem State.recordAuto_lastUpdate (r t : Nat) : (s.recordAuto r t).lastUpdate = t := rfl
@[simp] theorem State.recordAuto_seq (r t : Nat) : (s.recordAuto r t).seq = s.seq := rfl
@[simp] theorem State.recordAuto_wires (r t : Nat) : (s.recordAuto r t).wires = s.wires := rfl
@[simp] theorem State.recordAuto_response (r t : Nat) : (s.recordAuto r t).response = s.response := rfl
@[simp] theorem State.recordAuto_pins (r t : Nat) : (s.recordAuto r t).pins = s.pins := rfl
@[simp] theorem State.recordAuto_hostPlan (r t : Nat) : (s.recordAuto r t).hostPlan = s.hostPlan := rfl
@[simp] theorem State.recordAuto_chain (r t : Nat) : (s.recordAuto r t).chain = s.chain := rfl
@[simp] theorem State.recordAuto_trace (r t : Nat) : (s.recordAuto r t).trace = s.trace := rfl
@[simp] theorem State.recordAuto_faultReason (r t : Nat) : (s.recordAuto r t).faultReason = s.faultReason := rfl
@[simp] theorem State.recordAuto_freeCtr (r t : Nat) : (s.recordAuto r t).freeCtr = s.freeCtr := rfl

/-! ### setSeq -/

@[simp] theorem State.setSeq_fb (q : FlushSeq) : (s.setSeq q).fb = s.fb := rfl
@[simp] theorem State.setSeq_sb (q : FlushSeq) : (s.setSeq q).sb = s.sb := rfl
@[simp] theorem State.setSeq_phase (q : FlushSeq) : (s.setSeq q).phase = s.phase := rfl
@[simp] theorem State.setSeq_session (q : FlushSeq) : (s.setSeq q).session = s.session := rfl
@[simp] theorem State.setSeq_fault (q : FlushSeq) : (s.setSeq q).fault = s.fault := rfl
@[simp] theorem State.setSeq_level (q : FlushSeq) : (s.setSeq q).level = s.level := rfl
@[simp] theorem State.setSeq_lastReading (q : FlushSeq) : (s.setSeq q).lastReading = s.lastReading := rfl
@[simp] theorem State.setSeq_lastUpdate (q : FlushSeq) : (s.setSeq q).lastUpdate = s.lastUpdate := rfl
@[simp] theorem State.setSeq_seq (q : FlushSeq) : (s.setSeq q).seq = q := rfl
@[simp] theorem State.setSeq_wires (q : FlushSeq) : (s.setSeq q).wires = s.wires := rfl
@[simp] theorem State.setSeq_response (q : FlushSeq) : (s.setSeq q).response = s.response := rfl
@[simp] theorem State.setSeq_pins (q : FlushSeq) : (s.setSeq q).pins = s.pins := rfl
@[simp] theorem State.setSeq_hostPlan (q : FlushSeq) : (s.setSeq q).hostPlan = s.hostPlan := rfl
@[simp] theorem State.setSeq_chain (q : FlushSeq) : (s.setSeq q).chain = s.chain := rfl
@[simp] theorem State.setSeq_trace (q : FlushSeq) : (s.setSeq q).trace = s.trace := rfl
@[simp] theorem State.setSeq_faultReason (q : FlushSeq) : (s.setSeq q).faultReason = s.faultReason := rfl
@[simp] theorem State.setSeq_freeCtr (q : FlushSeq) : (s.setSeq q).freeCtr = s.freeCtr := rfl

/-! ### setResponse -/

@[simp] theorem State.setResponse_fb (r : Option (BitVec 2)) : (s.setResponse r).fb = s.fb := rfl
@[simp] theorem State.setResponse_sb (r : Option (BitVec 2)) : (s.setResponse r).sb = s.sb := rfl
@[simp] theorem State.setResponse_phase (r : Option (BitVec 2)) : (s.setResponse r).phase = s.phase := rfl
@[simp] theorem State.setResponse_session (r : Option (BitVec 2)) : (s.setResponse r).session = s.session := rfl
@[simp] theorem State.setResponse_fault (r : Option (BitVec 2)) : (s.setResponse r).fault = s.fault := rfl
@[simp] theorem State.setResponse_level (r : Option (BitVec 2)) : (s.setResponse r).level = s.level := rfl
@[simp] theorem State.setResponse_lastReading (r : Option (BitVec 2)) :
    (s.setResponse r).lastReading = s.lastReading := rfl
@[simp] theorem State.setResponse_lastUpdate (r : Option (BitVec 2)) :
    (s.setResponse r).lastUpdate = s.lastUpdate := rfl
@[simp] theorem State.setResponse_seq (r : Option (BitVec 2)) : (s.setResponse r).seq = s.seq := rfl
@[simp] theorem State.setResponse_wires (r : Option (BitVec 2)) : (s.setResponse r).wires = s.wires := rfl
@[simp] theorem State.setResponse_response (r : Option (BitVec 2)) : (s.setResponse r).response = r := rfl
@[simp] theorem State.setResponse_pins (r : Option (BitVec 2)) : (s.setResponse r).pins = s.pins := rfl
@[simp] theorem State.setResponse_hostPlan (r : Option (BitVec 2)) : (s.setResponse r).hostPlan = s.hostPlan := rfl
@[simp] theorem State.setResponse_chain (r : Option (BitVec 2)) : (s.setResponse r).chain = s.chain := rfl
@[simp] theorem State.setResponse_trace (r : Option (BitVec 2)) : (s.setResponse r).trace = s.trace := rfl
@[simp] theorem State.setResponse_faultReason (r : Option (BitVec 2)) :
    (s.setResponse r).faultReason = s.faultReason := rfl
@[simp] theorem State.setResponse_freeCtr (r : Option (BitVec 2)) : (s.setResponse r).freeCtr = s.freeCtr := rfl

/-! ### respond -/

@[simp] theorem State.respond_fb (c : BitVec 2) : (s.respond c).fb = s.fb := rfl
@[simp] theorem State.respond_sb (c : BitVec 2) : (s.respond c).sb = s.sb := rfl
@[simp] theorem State.respond_phase (c : BitVec 2) : (s.respond c).phase = s.phase := rfl
@[simp] theorem State.respond_session (c : BitVec 2) : (s.respond c).session = s.session := rfl
@[simp] theorem State.respond_fault (c : BitVec 2) : (s.respond c).fault = s.fault := rfl
@[simp] theorem State.respond_level (c : BitVec 2) : (s.respond c).level = s.level := rfl
@[simp] theorem State.respond_lastReading (c : BitVec 2) : (s.respond c).lastReading = s.lastReading := rfl
@[simp] theorem State.respond_lastUpdate (c : BitVec 2) : (s.respond c).lastUpdate = s.lastUpdate := rfl
@[simp] theorem State.respond_seq (c : BitVec 2) : (s.respond c).seq = s.seq := rfl
@[simp] theorem State.respond_wires (c : BitVec 2) : (s.respond c).wires = s.wires := rfl
@[simp] theorem State.respond_response (c : BitVec 2) : (s.respond c).response = some c := rfl
@[simp] theorem State.respond_pins (c : BitVec 2) : (s.respond c).pins = s.pins := rfl
@[simp] theorem State.respond_hostPlan (c : BitVec 2) : (s.respond c).hostPlan = s.hostPlan := rfl
@[simp] theorem State.respond_chain (c : BitVec 2) : (s.respond c).chain = s.chain := rfl
@[simp] theorem State.respond_trace (c : BitVec 2) : (s.respond c).trace = s.trace := rfl
@[simp] theorem State.respond_faultReason (c : BitVec 2) : (s.respond c).faultReason = s.faultReason := rfl
@[simp] theorem State.respond_freeCtr (c : BitVec 2) : (s.respond c).freeCtr = s.freeCtr := rfl

/-! ### setHost -/

@[simp] theorem State.setHost_fb (p : HostPins) (l : List HostPins) : (s.setHost p l).fb = s.fb := rfl
@[simp] theorem State.setHost_sb (p : HostPins) (l : List HostPins) : (s.setHost p l).sb = s.sb := rfl
@[simp] theorem State.setHost_phase (p : HostPins) (l : List HostPins) : (s.setHost p l).phase = s.phase := rfl
@[simp] theorem State.setHost_session (p : HostPins) (l : List HostPins) : (s.setHost p l).session = s.session := rfl
@[simp] theorem State.setHost_fault (p : HostPins) (l : List HostPins) : (s.setHost p l).fault = s.fault := rfl
@[simp] theorem State.setHost_level (p : HostPins) (l : List HostPins) : (s.setHost p l).level = s.level := rfl
@[simp] theorem State.setHost_lastReading (p : HostPins) (l : List HostPins) :
    (s.setHost p l).lastReading = s.lastReading := rfl
@[simp] theorem State.setHost_lastUpdate (p : HostPins) (l : List HostPins) :
    (s.setHost p l).lastUpdate = s.lastUpdate := rfl
@[simp] theorem State.setHost_seq (p : HostPins) (l : List HostPins) : (s.setHost p l).seq = s.seq := rfl
@[simp] theorem State.setHost_wires (p : HostPins) (l : List HostPins) : (s.setHost p l).wires = s.wires := rfl
@[simp] theorem State.setHost_response (p : HostPins) (l : List HostPins) :
    (s.setHost p l).response = s.response := rfl
@[simp] theorem State.setHost_pins (p : HostPins) (l : List HostPins) : (s.setHost p l).pins = p := rfl
@[simp] theorem State.setHost_hostPlan (p : HostPins) (l : List HostPins) : (s.setHost p l).hostPlan = l := rfl
@[simp] theorem State.setHost_chain (p : HostPins) (l : List HostPins) : (s.setHost p l).chain = s.chain := rfl
@[simp] theorem State.setHost_trace (p : HostPins) (l : List HostPins) : (s.setHost p l).trace = s.trace := rfl
@[simp] theorem State.setHost_faultReason (p : HostPins) (l : List HostPins) :
    (s.setHost p l).faultReason = s.faultReason := rfl
@[simp] theorem State.setHost_freeCtr (p : HostPins) (l : List HostPins) : (s.setHost p l).freeCtr = s.freeCtr := rfl

/-! ### setBus -/

@[simp] theorem State.setBus_fb (w : Wires) (c : Chain) (t : List BusEvent) (n : Nat) :
    (s.setBus w c t n).fb = s.fb := rfl
@[simp] theorem State.setBus_sb (w : Wires) (c : Chain) (t : List BusEvent) (n : Nat) :
    (s.setBus w c t n).sb = s.sb := rfl
@[simp] theorem State.setBus_phase (w : Wires) (c : Chain) (t : List BusEvent) (n : Nat) :
    (s.setBus w c t n).phase = s.phase := rfl
@[simp] theorem State.setBus_session (w : Wires) (c : Chain) (t : List BusEvent) (n : Nat) :
    (s.setBus w c t n).session = s.session := rfl
@[simp] theorem State.setBus_fault (w : Wires) (c : Chain) (t : List BusEvent) (n : Nat) :
    (s.setBus w c t n).fault = s.fault := rfl
@[simp] theorem State.setBus_level (w : Wires) (c : Chain) (t : List BusEvent) (n : Nat) :
    (s.setBus w c t n).level = s.level := rfl
@[simp] theorem State.setBus_lastReading (w : Wires) (c : Chain) (t : List BusEvent) (n : Nat) :
    (s.setBus w c t n).lastReading = s.lastReading := rfl
@[simp] theorem State.setBus_lastUpdate (w : Wires) (c : Chain) (t : List BusEvent) (n : Nat) :
    (s.setBus w c t n).lastUpdate = s.lastUpdate := rfl
@[simp] theorem State.setBus_seq (w : Wires) (c : Chain) (t : List BusEvent) (n : Nat) :
    (s.setBus w c t n).seq = s.seq := rfl
@[simp] theorem State.setBus_wires (w : Wires) (c : Chain) (t : List BusEvent) (n : Nat) :
    (s.setBus w c t n).wires = w := rfl
@[simp] theorem State.setBus_response (w : Wires) (c : Chain) (t : List BusEvent) (n : Nat) :
    (s.setBus w c t n).response = s.response := rfl
@[simp] theorem State.setBus_pins (w : Wires) (c : Chain) (t : List BusEvent) (n : Nat) :
    (s.setBus w c t n).pins = s.pins := rfl
@[simp] theorem State.setBus_hostPlan (w : Wires) (c : Chain) (t : List BusEvent) (n : Nat) :
    (s.setBus w c t n).hostPlan = s.hostPlan := rfl
@[simp] theorem State.setBus_chain (w : Wires) (c : Chain) (t : List BusEvent) (n : Nat) :
    (s.setBus w c t n).chain = c := rfl
@[simp] theorem State.setBus_trace (w : Wires) (c : Chain) (t : List BusEvent) (n : Nat) :
    (s.setBus w c t n).trace = t := rfl
@[simp] theorem State.setBus_faultReason (w : Wires) (c : Chain) (t : List BusEvent) (n : Nat) :
    (s.setBus w c t n).faultReason = s.faultReason := rfl
@[simp] theorem State.setBus_freeCtr (w : Wires) (c : Chain) (t : List BusEvent) (n : Nat) :
    (s.setBus w c t n).freeCtr = n := rfl

/-! ### setWires -/

@[simp] theorem State.setWires_fb (w : Wires) : (s.setWires w).fb = s.fb := rfl
@[simp] theorem State.setWires_sb (w : Wires) : (s.setWires w).sb = s.sb := rfl
@[simp] theorem State.setWires_phase (w : Wires) : (s.setWires w).phase = s.phase := rfl
@[simp] theorem State.setWires_session (w : Wires) : (s.setWires w).session = s.session := rfl
@[simp] theorem State.setWires_fault (w : Wires) : (s.setWires w).fault = s.fault := rfl
@[simp] theorem State.setWires_level (w : Wires) : (s.setWires w).level = s.level := rfl
@[simp] theorem State.setWires_lastReading (w : Wires) : (s.setWires w).lastReading = s.lastReading := rfl
@[simp] theorem State.setWires_lastUpdate (w : Wires) : (s.setWires w).lastUpdate = s.lastUpdate := rfl
@[simp] theorem State.setWires_seq (w : Wires) : (s.setWires w).seq = s.seq := rfl
@[simp] theorem State.setWires_wires (w : Wires) : (s.setWires w).wires = w := rfl
@[simp] theorem State.setWires_response (w : Wires) : (s.setWires w).response = s.response := rfl
@[simp] theorem State.setWires_pins (w : Wires) : (s.setWires w).pins = s.pins := rfl
@[simp] theorem State.setWires_hostPlan (w : Wires) : (s.setWires w).hostPlan = s.hostPlan := rfl
@[simp] theorem State.setWires_chain (w : Wires) : (s.setWires w).chain = s.chain := rfl
@[simp] theorem State.setWires_trace (w : Wires) : (s.setWires w).trace = s.trace := rfl
@[simp] theorem State.setWires_faultReason (w : Wires) : (s.setWires w).faultReason = s.faultReason := rfl
@[simp] theorem State.setWires_freeCtr (w : Wires) : (s.setWires w).freeCtr = s.freeCtr := rfl

/-! ### bumpFree -/

@[simp] theorem State.bumpFree_fb : (s.bumpFree).fb = s.fb := rfl
@[simp] theorem State.bumpFree_sb : (s.bumpFree).sb = s.sb := rfl
@[simp] theorem State.bumpFree_phase : (s.bumpFree).phase = s.phase := rfl
@[simp] theorem State.bumpFree_session : (s.bumpFree).session = s.session := rfl
@[simp] theorem State.bumpFree_fault : (s.bumpFree).fault = s.fault := rfl
@[simp] theorem State.bumpFree_level : (s.bumpFree).level = s.level := rfl
@[simp] theorem State.bumpFree_lastReading : (s.bumpFree).lastReading = s.lastReading := rfl
@[simp] theorem State.bumpFree_lastUpdate : (s.bumpFree).lastUpdate = s.lastUpdate := rfl
@[simp] theorem State.bumpFree_seq : (s.bumpFree).seq = s.seq := rfl
@[simp] theorem State.bumpFree_wires : (s.bumpFree).wires = s.wires := rfl
@[simp] theorem State.bumpFree_response : (s.bumpFree).response = s.response := rfl
@[simp] theorem State.bumpFree_pins : (s.bumpFree).pins = s.pins := rfl
@[simp] theorem State.bumpFree_hostPlan : (s.bumpFree).hostPlan = s.hostPlan := rfl
@[simp] theorem State.bumpFree_chain : (s.bumpFree).chain = s.chain := rfl
@[simp] theorem State.bumpFree_trace : (s.bumpFree).trace = s.trace := rfl
@[simp] theorem State.bumpFree_faultReason : (s.bumpFree).faultReason = s.faultReason := rfl
@[simp] theorem State.bumpFree_freeCtr : (s.bumpFree).freeCtr = s.freeCtr + 1 := rfl

/-! ### emit -/

@[simp] theorem State.emit_fb (cfg : Config) (es : List BusEvent) : (s.emit cfg es).fb = s.fb := rfl
@[simp] theorem State.emit_sb (cfg : Config) (es : List BusEvent) : (s.emit cfg es).sb = s.sb := rfl
@[simp] theorem State.emit_phase (cfg : Config) (es : List BusEvent) : (s.emit cfg es).phase = s.phase := rfl
@[simp] theorem State.emit_session (cfg : Config) (es : List BusEvent) : (s.emit cfg es).session = s.session := rfl
@[simp] theorem State.emit_fault (cfg : Config) (es : List BusEvent) : (s.emit cfg es).fault = s.fault := rfl
@[simp] theorem State.emit_level (cfg : Config) (es : List BusEvent) : (s.emit cfg es).level = s.level := rfl
@[simp] theorem State.emit_lastReading (cfg : Config) (es : List BusEvent) :
    (s.emit cfg es).lastReading = s.lastReading := rfl
@[simp] theorem State.emit_lastUpdate (cfg : Config) (es : List BusEvent) :
    (s.emit cfg es).lastUpdate = s.lastUpdate := rfl
@[simp] theorem State.emit_seq (cfg : Config) (es : List BusEvent) : (s.emit cfg es).seq = s.seq := rfl
@[simp] theorem State.emit_wires (cfg : Config) (es : List BusEvent) :
    (s.emit cfg es).wires = (s.wires.onEvents s.freeCtr es).1 := rfl
@[simp] theorem State.emit_response (cfg : Config) (es : List BusEvent) : (s.emit cfg es).response = s.response := rfl
@[simp] theorem State.emit_pins (cfg : Config) (es : List BusEvent) : (s.emit cfg es).pins = s.pins := rfl
@[simp] theorem State.emit_hostPlan (cfg : Config) (es : List BusEvent) : (s.emit cfg es).hostPlan = s.hostPlan := rfl
@[simp] theorem State.emit_chain (cfg : Config) (es : List BusEvent) :
    (s.emit cfg es).chain = s.chain.onEvents cfg es := rfl
@[simp] theorem State.emit_trace (cfg : Config) (es : List BusEvent) : (s.emit cfg es).trace = s.trace ++ es := rfl
@[simp] theorem State.emit_faultReason (cfg : Config) (es : List BusEvent) :
    (s.emit cfg es).faultReason = s.faultReason := rfl
@[simp] theorem State.emit_freeCtr (cfg : Config) (es : List BusEvent) :
    (s.emit cfg es).freeCtr = (s.wires.onEvents s.freeCtr es).2 := rfl

/-! ### broadcast -/

@[simp] theorem State.broadcast_fb (cfg : Config) (g v : Byte) : (s.broadcast cfg g v).fb = s.fb := rfl
@[simp] theorem State.broadcast_sb (cfg : Config) (g v : Byte) : (s.broadcast cfg g v).sb = s.sb := rfl
@[simp] theorem State.broadcast_phase (cfg : Config) (g v : Byte) : (s.broadcast cfg g v).phase = s.phase := rfl
@[simp] theorem State.broadcast_session (cfg : Config) (g v : Byte) : (s.broadcast cfg g v).session = s.session := rfl
@[simp] theorem State.broadcast_fault (cfg : Config) (g v : Byte) : (s.broadcast cfg g v).fault = s.fault := rfl
@[simp] theorem State.broadcast_level (cfg : Config) (g v : Byte) : (s.broadcast cfg g v).level = s.level := rfl
@[simp] theorem State.broadcast_lastReading (cfg : Config) (g v : Byte) :
    (s.broadcast cfg g v).lastReading = s.lastReading := rfl
@[simp] theorem State.broadcast_lastUpdate (cfg : Config) (g v : Byte) :
    (s.broadcast cfg g v).lastUpdate = s.lastUpdate := rfl
@[simp] theorem State.broadcast_seq (cfg : Config) (g v : Byte) : (s.broadcast cfg g v).seq = s.seq := rfl
@[simp] theorem State.broadcast_wires (cfg : Config) (g v : Byte) :
    (s.broadcast cfg g v).wires = (s.wires.onEvents s.freeCtr (broadcastEvents g v)).1 := rfl
@[simp] theorem State.broadcast_response (cfg : Config) (g v : Byte) :
    (s.broadcast cfg g v).response = s.response := rfl
@[simp] theorem State.broadcast_pins (cfg : Config) (g v : Byte) : (s.broadcast cfg g v).pins = s.pins := rfl
@[simp] theorem State.broadcast_hostPlan (cfg : Config) (g v : Byte) :
    (s.broadcast cfg g v).hostPlan = s.hostPlan := rfl
@[simp] theorem State.broadcast_chain (cfg : Config) (g v : Byte) :
    (s.broadcast cfg g v).chain = s.chain.onEvents cfg (broadcastEvents g v) := rfl
@[simp] theorem State.broadcast_trace (cfg : Config) (g v : Byte) :
    (s.broadcast cfg g v).trace = s.trace ++ broadcastEvents g v := rfl
@[simp] theorem State.broadcast_faultReason (cfg : Config) (g v : Byte) :
    (s.broadcast cfg g v).faultReason = s.faultReason := rfl
@[simp] theorem State.broadcast_freeCtr (cfg : Config) (g v : Byte) :
    (s.broadcast cfg g v).freeCtr = (s.wires.onEvents s.freeCtr (broadcastEvents g v)).2 := rfl

end Sys2Proof.Machine
end

