-- ==== Sys2Proof/Laws/Bus.lean ====
section
/-! SUPPORT. What bus events do to the lines and to the chain, each said once: runs of events, whole words, the latch of a
strobe, and the shape of boot. -/

namespace Sys2Proof.Machine

@[simp] theorem onEvents_nil (cfg : Config) (c : Chain) : c.onEvents cfg [] = c := rfl

theorem onEvents_append (cfg : Config) (c : Chain) (es fs : List BusEvent) :
    c.onEvents cfg (es ++ fs) = (c.onEvents cfg es).onEvents cfg fs := List.foldl_append

@[simp] theorem wires_onEvents_nil (w : Wires) (n : Nat) : w.onEvents n [] = (w, n) := rfl

theorem wires_onEvents_append (w : Wires) (n : Nat) (es fs : List BusEvent) :
    w.onEvents n (es ++ fs) = (w.onEvents n es).1.onEvents (w.onEvents n es).2 fs := List.foldl_append

/-- Emitting one run of events after another is emitting both together. -/
theorem emit_append (cfg : Config) (s : State) (es fs : List BusEvent) :
    s.emit cfg (es ++ fs) = (s.emit cfg es).emit cfg fs := by
  simp only [State.emit, State.setBus, wires_onEvents_append, onEvents_append, List.append_assoc]

theorem emit_nil (cfg : Config) (s : State) : s.emit cfg [] = s := by
  simp only [State.emit, State.setBus, wires_onEvents_nil, onEvents_nil, List.append_nil]

/-- Two chips with the same registers are the same. -/
theorem chain_ext {a b : Chain} (h : ∀ c : ChipIdx, a.get c = b.get c) : a = b := by
  apply Vector.ext
  intro i hi
  exact h ⟨i, hi⟩

@[simp] theorem onBit_get_zero (c : Chain) (b : Bool) : (c.onBit b).get 0 = (c.get 0).shiftIn b := rfl
@[simp] theorem onBit_get_one (c : Chain) (b : Bool) : (c.onBit b).get 1 = (c.get 1).shiftIn (c.get 0).serialOut := rfl
@[simp] theorem onBit_get_two (c : Chain) (b : Bool) : (c.onBit b).get 2 = (c.get 2).shiftIn (c.get 1).serialOut := rfl
@[simp] theorem onBit_get_three (c : Chain) (b : Bool) :
    (c.onBit b).get 3 = (c.get 3).shiftIn (c.get 2).serialOut := rfl

/-- At a strobe every chip latches its own shift register. -/
theorem latch_get (cfg : Config) (c : Chain) (k : ChipIdx) : (c.latch cfg).get k = (c.get k).latch cfg := by
  fin_cases k <;> rfl

/-- A chip with another shift register, its other registers as they were. -/
def Chip.withSr (ch : Chip) (v : BitVec 16) : Chip := { ch with sr := v }

@[simp] theorem Chip.withSr_sr (ch : Chip) (v : BitVec 16) : (ch.withSr v).sr = v := rfl
@[simp] theorem Chip.withSr_dig (ch : Chip) (v : BitVec 16) : (ch.withSr v).dig = ch.dig := rfl
@[simp] theorem Chip.withSr_decode (ch : Chip) (v : BitVec 16) : (ch.withSr v).decode = ch.decode := rfl
@[simp] theorem Chip.withSr_scanLimit (ch : Chip) (v : BitVec 16) : (ch.withSr v).scanLimit = ch.scanLimit := rfl
@[simp] theorem Chip.withSr_shutdown (ch : Chip) (v : BitVec 16) : (ch.withSr v).shutdown = ch.shutdown := rfl
@[simp] theorem Chip.withSr_test (ch : Chip) (v : BitVec 16) : (ch.withSr v).test = ch.test := rfl
@[simp] theorem Chip.withSr_intensity (ch : Chip) (v : BitVec 16) : (ch.withSr v).intensity = ch.intensity := rfl
@[simp] theorem Chip.withSr_withSr (ch : Chip) (v w : BitVec 16) : (ch.withSr v).withSr w = ch.withSr w := rfl
@[simp] theorem Chip.withSr_self (ch : Chip) : ch.withSr ch.sr = ch := rfl

/-- The bits of a 16-bit value, bit 15 first. -/
def bitsOf (v : BitVec 16) : List Bool :=
  ([15, 14, 13, 12, 11, 10, 9, 8, 7, 6, 5, 4, 3, 2, 1, 0] : List Nat).map v.getLsbD

/-- The events of a word are its sixteen bits, bit 15 first. -/
theorem wordEvents_eq (w : Byte × Byte) : wordEvents w = (bitsOf (w.1 ++ w.2)).map .bit := by
  have h : ∀ i, BitVec.getLsbD (w := 16) (w.1 ++ w.2) i = if i < 8 then w.2.getLsbD i else w.1.getLsbD (i - 8) :=
    fun i => BitVec.getLsbD_append
  simp [-BitVec.getLsbD_eq_getElem, wordEvents, byteEvents, bitsOf, h]

/-- Shifting the bits of a value into a 16-bit register leaves that value. -/
theorem shift_bitsOf (x v : BitVec 16) : (bitsOf v).foldl BitVec.shiftConcat x = v := by
  apply BitVec.eq_of_getLsbD_eq
  intro i hi
  simp only [bitsOf, List.map_cons, List.map_nil, List.foldl_cons, List.foldl_nil, BitVec.getLsbD_shiftConcat]
  interval_cases i <;> simp

/-- The bits a register gives out while a list of bits is shifted in. -/
def shiftedOut : BitVec 16 → List Bool → List Bool
  | _, [] => []
  | x, b :: bs => x.getLsbD 15 :: shiftedOut (x.shiftConcat b) bs

/-- While sixteen bits are shifted in, a register gives out its own sixteen bits. -/
theorem shiftedOut_bitsOf (x v : BitVec 16) : shiftedOut x (bitsOf v) = bitsOf x := by
  simp [bitsOf, shiftedOut]

/-- A run of bits moves through the chain: each chip is fed by the one before it. -/
theorem onEvents_bits (cfg : Config) (bs : List Bool) (c : Chain) :
    c.onEvents cfg (bs.map .bit) =
      let o0 := shiftedOut (c.get 0).sr bs
      let o1 := shiftedOut (c.get 1).sr o0
      let o2 := shiftedOut (c.get 2).sr o1
      #v[(c.get 0).withSr (bs.foldl BitVec.shiftConcat (c.get 0).sr),
        (c.get 1).withSr (o0.foldl BitVec.shiftConcat (c.get 1).sr),
        (c.get 2).withSr (o1.foldl BitVec.shiftConcat (c.get 2).sr),
        (c.get 3).withSr (o2.foldl BitVec.shiftConcat (c.get 3).sr)] := by
  induction bs generalizing c with
  | nil => apply chain_ext; intro k; fin_cases k <;> rfl
  | cons b bs ih =>
    have h : c.onEvents cfg ((b :: bs).map .bit) = (c.onBit b).onEvents cfg (bs.map .bit) := rfl
    rw [h, ih]
    rfl

/-- One word moves the whole chain by one chip: chip 0 holds the word, each other chip what the chip before it held; no
other register changes (`60_exceptions.md` R193). -/
theorem onEvents_word (cfg : Config) (c : Chain) (w : Byte × Byte) :
    c.onEvents cfg (wordEvents w) =
      #v[(c.get 0).withSr (w.1 ++ w.2), (c.get 1).withSr (c.get 0).sr, (c.get 2).withSr (c.get 1).sr,
        (c.get 3).withSr (c.get 2).sr] := by
  rw [wordEvents_eq, onEvents_bits]
  simp only [shiftedOut_bitsOf, shift_bitsOf]

/-- The strobe pulse is one latch. -/
theorem onEvents_strobe (cfg : Config) (c : Chain) : c.onEvents cfg strobeEvents = c.latch cfg := rfl

/-- A frame is its four words, the word of chip 3 first, then the strobe. -/
theorem frameEvents_eq (w : FrameWords) :
    frameEvents w = wordEvents (w 3) ++ wordEvents (w 2) ++ wordEvents (w 1) ++ wordEvents (w 0) ++ strobeEvents := by
  simp [frameEvents, chainOrder]

/-- A frame leaves its word in every chip's shift register, and each chip latches its own. -/
theorem onEvents_frame_get (cfg : Config) (c : Chain) (w : FrameWords) (k : ChipIdx) :
    (c.onEvents cfg (frameEvents w)).get k = ((c.get k).withSr ((w k).1 ++ (w k).2)).latch cfg := by
  rw [frameEvents_eq]
  simp only [onEvents_append, onEvents_strobe, latch_get, onEvents_word]
  fin_cases k <;> rfl

/-- A latch does not change the shift register. -/
@[simp] theorem latch_sr (cfg : Config) (ch : Chip) : (ch.latch cfg).sr = ch.sr := by
  simp only [Chip.latch]
  split_ifs <;> rfl

/-- The events of no frames, and of a frame before others. -/
@[simp] theorem framesEvents_nil : framesEvents [] = [] := rfl

@[simp] theorem framesEvents_cons (w : FrameWords) (ws : List FrameWords) :
    framesEvents (w :: ws) = frameEvents w ++ framesEvents ws := rfl

theorem framesEvents_append (ws vs : List FrameWords) :
    framesEvents (ws ++ vs) = framesEvents ws ++ framesEvents vs := List.flatMap_append

/-- A broadcast is one frame with the same word for all chips. -/
theorem broadcastEvents_eq (r v : Byte) : broadcastEvents r v = framesEvents [fun _ => (r, v)] := by
  simp [broadcastEvents]

/-- A run of bits leaves the strobe and the counter as they were and the clock low, if it was low. -/
theorem wires_bits (bs : List Bool) (w : Wires) (n : Nat) :
    (w.onEvents n (bs.map .bit)).1.serLoad = w.serLoad ∧ (w.onEvents n (bs.map .bit)).2 = n ∧
      (w.serClk = false → (w.onEvents n (bs.map .bit)).1.serClk = false) := by
  induction bs generalizing w with
  | nil => exact ⟨rfl, rfl, id⟩
  | cons b bs ih =>
    obtain ⟨h1, h2, h3⟩ := ih { w with serData := b, serClk := false }
    exact ⟨h1, h2, fun _ => h3 rfl⟩

/-- A frame's events are its 64 bits, the first one split off, then the strobe. -/
theorem frameEvents_bits (w : FrameWords) :
    ∃ (b : Bool) (bs : List Bool), frameEvents w = .bit b :: (bs.map .bit ++ strobeEvents) := by
  rw [frameEvents_eq]
  simp only [wordEvents_eq, ← List.map_append]
  exact ⟨_, _, rfl⟩

/-- From any lines, a frame leaves the clock low and the strobe high. -/
theorem wires_frameEvents (l : Wires) (n : Nat) (w : FrameWords) :
    (l.onEvents n (frameEvents w)).1.serClk = false ∧ (l.onEvents n (frameEvents w)).1.serLoad = true := by
  obtain ⟨b, bs, h⟩ := frameEvents_bits w
  rw [h, ← List.singleton_append, ← List.append_assoc, wires_onEvents_append]
  refine ⟨?_, rfl⟩
  have hb := (wires_bits bs { l with serData := b, serClk := false } n).2.2 rfl
  exact hb

/-- A broadcast leaves the lines at rest, wherever they were. -/
theorem broadcast_linesAtRest (cfg : Config) (s : State) (r v : Byte) : LinesAtRest (s.broadcast cfg r v) :=
  wires_frameEvents s.wires s.freeCtr fun _ => (r, v)

/-- Whole frames leave the clock low and the strobe high. -/
theorem wires_framesEvents (l : Wires) (n : Nat) (ws : List FrameWords) (hc : l.serClk = false) (hl : l.serLoad = true) :
    (l.onEvents n (framesEvents ws)).1.serClk = false ∧ (l.onEvents n (framesEvents ws)).1.serLoad = true := by
  induction ws generalizing l n with
  | nil => exact ⟨hc, hl⟩
  | cons f ws ih =>
    rw [framesEvents_cons, wires_onEvents_append]
    exact ih _ _ (wires_frameEvents l n f).1 (wires_frameEvents l n f).2

/-- The boot sequence is one emission of thirteen frames, then the lines at their reset levels and PHASE <- Run
(`70_reset_and_hazards.md` R212, `10_state.md` R39). -/
theorem boot_eq (cfg : Config) (s : State) :
    boot cfg s =
      ((s.emit cfg (framesEvents ((bootWrites cfg).map fun w _ => w))).setWires idleWires).setPhase .run := by
  have h : ∀ (ws : List (Byte × Byte)) (s : State),
      ws.foldl (fun s w => s.broadcast cfg w.1 w.2) s = s.emit cfg (framesEvents (ws.map fun w _ => w)) := by
    intro ws
    induction ws with
    | nil => intro s; exact (emit_nil cfg s).symm
    | cons w ws ih =>
      intro s
      rw [List.foldl_cons, ih, List.map_cons, framesEvents_cons, emit_append]
      rfl
  rw [boot, h]

/-- The address nibble of a word that has arrived. -/
theorem address_withSr (ch : Chip) (r v : Byte) : (ch.withSr (r ++ v)).address = lowNibble r := by
  simp only [Chip.address, Chip.withSr_sr, lowNibble]
  apply BitVec.eq_of_getLsbD_eq
  intro i hi
  simp only [BitVec.getLsbD_extractLsb', BitVec.getLsbD_append]
  interval_cases i <;> simp

/-- The value byte of a word that has arrived. -/
theorem value_withSr (ch : Chip) (r v : Byte) : (ch.withSr (r ++ v)).value = v := by
  simp only [Chip.value, Chip.withSr_sr]
  apply BitVec.eq_of_getLsbD_eq
  intro i hi
  simp only [BitVec.getLsbD_extractLsb', BitVec.getLsbD_append]
  simp [-BitVec.getLsbD_eq_getElem, hi]

/-- A register byte 1..8 selects that digit register. -/
theorem latch_digit (cfg : Config) (ch : Chip) (r v : Byte) (h : 1 ≤ r.toNat ∧ r.toNat ≤ 8) :
    (ch.withSr (r ++ v)).latch cfg =
      { ch.withSr (r ++ v) with dig := ch.dig.set (r.toNat - 1) v (by omega) } := by
  have hn : (lowNibble r).toNat = r.toNat := by
    simp only [lowNibble, BitVec.extractLsb'_toNat]
    omega
  simp only [Chip.latch, address_withSr, value_withSr, hn, Chip.withSr_dig]
  rw [dif_pos h]

/-- The constraints on the codes, one by one (`00_scope.md` R4). -/
theorem wf_iff (cfg : Config) : cfg.wf = true ↔
    cfg.regNibbles.Nodup ∧ (∀ n ∈ cfg.regNibbles, n.toNat = 0 ∨ 8 < n.toNat) ∧ cfg.testOffVal ≠ cfg.testOnVal ∧
      1 ≤ cfg.sensorW ∧ 1 ≤ cfg.tickW ∧ cfg.autoInterval < 2 ^ cfg.tickW := by
  simp [Config.wf, and_assoc]

/-- A control register's nibble is no digit address. -/
theorem not_digit_of_wf {cfg : Config} (h : cfg.wf = true) {n : BitVec 4} (hn : n ∈ cfg.regNibbles) :
    ¬ (1 ≤ n.toNat ∧ n.toNat ≤ 8) := by
  have := ((wf_iff cfg).mp h).2.1 n hn
  omega

/-- A decode-mode word writes DECODE. -/
theorem latch_decode {cfg : Config} (h : cfg.wf = true) (ch : Chip) (v : Byte) :
    (ch.withSr (cfg.regDecode ++ v)).latch cfg = { ch.withSr (cfg.regDecode ++ v) with decode := v } := by
  have hd := not_digit_of_wf h (n := lowNibble cfg.regDecode) (by simp [Config.regNibbles])
  simp only [Chip.latch, address_withSr, value_withSr]
  rw [dif_neg hd, if_pos trivial]

/-- An intensity word writes the low four bits into INTENSITY. -/
theorem latch_intensity {cfg : Config} (h : cfg.wf = true) (ch : Chip) (v : Byte) :
    (ch.withSr (cfg.regIntensity ++ v)).latch cfg =
      { ch.withSr (cfg.regIntensity ++ v) with intensity := v.extractLsb' 0 4 } := by
  have hd := not_digit_of_wf h (n := lowNibble cfg.regIntensity) (by simp [Config.regNibbles])
  have hu := ((wf_iff cfg).mp h).1
  simp [Config.regNibbles] at hu
  simp only [Chip.latch, address_withSr, value_withSr]
  rw [dif_neg hd, if_neg (by tauto), if_pos trivial]

/-- A scan-limit word writes SCANLIMIT. -/
theorem latch_scanlimit {cfg : Config} (h : cfg.wf = true) (ch : Chip) (v : Byte) :
    (ch.withSr (cfg.regScanlimit ++ v)).latch cfg = { ch.withSr (cfg.regScanlimit ++ v) with scanLimit := v } := by
  have hd := not_digit_of_wf h (n := lowNibble cfg.regScanlimit) (by simp [Config.regNibbles])
  have hu := ((wf_iff cfg).mp h).1
  simp [Config.regNibbles] at hu
  simp only [Chip.latch, address_withSr, value_withSr]
  rw [dif_neg hd, if_neg (by tauto), if_neg (by tauto), if_pos trivial]

/-- A shutdown word writes SHUTDOWN. -/
theorem latch_shutdown {cfg : Config} (h : cfg.wf = true) (ch : Chip) (v : Byte) :
    (ch.withSr (cfg.regShutdown ++ v)).latch cfg = { ch.withSr (cfg.regShutdown ++ v) with shutdown := v } := by
  have hd := not_digit_of_wf h (n := lowNibble cfg.regShutdown) (by simp [Config.regNibbles])
  have hu := ((wf_iff cfg).mp h).1
  simp [Config.regNibbles] at hu
  simp only [Chip.latch, address_withSr, value_withSr]
  rw [dif_neg hd, if_neg (by tauto), if_neg (by tauto), if_neg (by tauto), if_pos trivial]

/-- A test word writes TEST. -/
theorem latch_test {cfg : Config} (h : cfg.wf = true) (ch : Chip) (v : Byte) :
    (ch.withSr (cfg.regTest ++ v)).latch cfg = { ch.withSr (cfg.regTest ++ v) with test := v } := by
  have hd := not_digit_of_wf h (n := lowNibble cfg.regTest) (by simp [Config.regNibbles])
  have hu := ((wf_iff cfg).mp h).1
  simp [Config.regNibbles] at hu
  simp only [Chip.latch, address_withSr, value_withSr]
  rw [dif_neg hd, if_neg (by tauto), if_neg (by tauto), if_neg (by tauto), if_neg (by tauto), if_pos trivial]

/-- A no-operation word writes nothing. -/
theorem latch_noop {cfg : Config} (h : cfg.wf = true) (ch : Chip) (v : Byte) :
    (ch.withSr (cfg.regNoop ++ v)).latch cfg = ch.withSr (cfg.regNoop ++ v) := by
  have hd := not_digit_of_wf h (n := lowNibble cfg.regNoop) (by simp [Config.regNibbles])
  have hu := ((wf_iff cfg).mp h).1
  simp [Config.regNibbles] at hu
  simp only [Chip.latch, address_withSr, value_withSr]
  rw [dif_neg hd, if_neg (by tauto), if_neg (by tauto), if_neg (by tauto), if_neg (by tauto), if_neg (by tauto),
    if_pos trivial]

/-- The machine's own configuration meets the constraints, whatever the OPEN interval is. -/
theorem actual_wf : Config.actual.wf = true :=
  (wf_iff _).mpr ⟨by decide, by decide, by decide, by decide, by decide, Config.openInterval.isLt⟩

end Sys2Proof.Machine
end

