-- ==== Sys2Proof/Laws/Buffers.lean ====
section
/-! SUPPORT. What the operations over the register files do, each said once: reads after writes, pixels after pixel writes,
painted cells, clearing. -/

namespace Sys2Proof.Machine

/-- A read after a write: the written value at the place written, the old value elsewhere. -/
theorem read_write (b : Buffer) (c c' : ChipIdx) (d d' : DigitIdx) (v : Byte) :
    Buffer.read (Buffer.write b c d v) c' d' = if c' = c ∧ d' = d then v else Buffer.read b c' d' := by
  simp only [Buffer.read, Buffer.write, Vector.get_eq_getElem, Vector.getElem_set]
  by_cases hc : c = c'
  · subst hc
    by_cases hd : d = d'
    · subst hd; simp
    · have h1 : ¬ d.val = d'.val := fun h => hd (Fin.ext h)
      have h2 : ¬ d' = d := fun h => hd h.symm
      simp [h1, h2]
  · have h1 : ¬ c.val = c'.val := fun h => hc (Fin.ext h)
    have h2 : ¬ c' = c := fun h => hc h.symm
    simp [h1, h2]

/-- Two register files with the same 32 bytes are the same. -/
theorem buffer_ext {a b : Buffer} (h : ∀ c d, Buffer.read a c d = Buffer.read b c d) : a = b := by
  apply Vector.ext
  intro i hi
  apply Vector.ext
  intro j hj
  exact h ⟨i, hi⟩ ⟨j, hj⟩

@[simp] theorem read_zeroBuffer (c : ChipIdx) (d : DigitIdx) : Buffer.read zeroBuffer c d = 0 := by
  simp [Buffer.read, zeroBuffer, Vector.get_eq_getElem]

/-- Writing what is already there changes nothing. -/
theorem write_read_self (b : Buffer) (c : ChipIdx) (d : DigitIdx) : Buffer.write b c d (Buffer.read b c d) = b := by
  apply buffer_ext
  intro c' d'
  rw [read_write]
  split
  · next h => rw [h.1, h.2]
  · rfl

theorem mem_chipIdxs (c : ChipIdx) : c ∈ chipIdxs := by revert c; decide

theorem mem_digitIdxs (d : DigitIdx) : d ∈ digitIdxs := by revert d; decide

/-- Clearing writes 0x00 to every byte. -/
theorem clear_eq_zeroBuffer (b : Buffer) : Buffer.clear b = zeroBuffer := by
  apply buffer_ext
  intro c d
  simp only [Buffer.clear, chipIdxs, digitIdxs, List.foldl_cons, List.foldl_nil, read_write, read_zeroBuffer]
  revert c d
  intro c d
  fin_cases c <;> fin_cases d <;> simp

/-- The zero test is true exactly of the zero register file. -/
theorem isZero_iff (b : Buffer) : Buffer.isZero b = true ↔ ∀ c d, Buffer.read b c d = 0 := by
  simp only [Buffer.isZero, List.all_eq_true, decide_eq_true_eq]
  exact ⟨fun h c d => h c (mem_chipIdxs c) d (mem_digitIdxs d), fun h c _ d _ => h c d⟩

/-- Distinct pixels have distinct cells (`40_addressing.md` R102). -/
theorem toCell_injective {x y x' y' : Coord} (h : toCell x y = toCell x' y') : x = x' ∧ y = y' := by
  simp only [toCell, Cell.mk.injEq, Fin.mk.injEq] at h
  obtain ⟨h1, h2, h3⟩ := h
  have hx := x.isLt
  have hx' := x'.isLt
  have hy := y.isLt
  have hy' := y'.isLt
  have e1 : x.val = x'.val := by omega
  have e2 : y.val = y'.val := by omega
  exact ⟨Fin.ext e1, Fin.ext e2⟩

/-- The bit a pixel write leaves at a position of the byte it writes. -/
theorem maskedBit (old : Byte) (s i : SegIdx) (v : Bool) :
    (if v then old ||| (1#8 <<< s.val) else old &&& ~~~(1#8 <<< s.val)).getLsbD i.val =
      if i = s then v else old.getLsbD i.val := by
  have hm : (1#8 <<< s.val).getLsbD i.val = decide (i = s) := by revert s i; decide
  have hi := i.isLt
  cases v <;> simp only [Bool.false_eq_true, if_true, if_false, BitVec.getLsbD_or, BitVec.getLsbD_and,
    BitVec.getLsbD_not, hm, hi, decide_true, Bool.true_and] <;> by_cases h : i = s <;> simp [h]

/-- A pixel read after a pixel write: the written value at the pixel, the old value at every other (`41_framebuffer_ops.md`
R111). -/
theorem testPx_setPx (fb : Buffer) (x y x' y' : Coord) (v : Bool) :
    testPx (setPx fb x y v) x' y' = if x' = x ∧ y' = y then v else testPx fb x' y' := by
  simp only [testPx, setPx, read_write]
  by_cases h : (toCell x' y').chip = (toCell x y).chip ∧ (toCell x' y').digit = (toCell x y).digit
  · rw [if_pos h, maskedBit]
    by_cases hs : (toCell x' y').segment = (toCell x y).segment
    · have he : toCell x' y' = toCell x y := by
        cases hk : toCell x' y'; cases hk' : toCell x y
        simp_all
      have := toCell_injective he
      simp [this.1, this.2]
    · rw [if_neg hs, if_neg]
      · rw [h.1, h.2]
      · rintro ⟨rfl, rfl⟩; exact hs rfl
  · rw [if_neg h, if_neg]
    rintro ⟨rfl, rfl⟩; exact h ⟨rfl, rfl⟩

/-- Every bit of a register file is a pixel (`40_addressing.md` R102): the same pixels, the same register file. -/
theorem buffer_ext_pixels {a b : Buffer} (h : ∀ x y, testPx a x y = testPx b x y) : a = b := by
  apply buffer_ext
  intro c d
  apply BitVec.eq_of_getLsbD_eq
  intro i hi
  have key : ∀ (c : ChipIdx) (d : DigitIdx) (i : SegIdx),
      toCell (fromCell ⟨c, d, i⟩).1 (fromCell ⟨c, d, i⟩).2 = ⟨c, d, i⟩ := by decide
  have := h (fromCell ⟨c, d, ⟨i, hi⟩⟩).1 (fromCell ⟨c, d, ⟨i, hi⟩⟩).2
  simpa only [testPx, key] using this

/-- Painting a cell writes the pixels at the given offsets and no other. -/
theorem testPx_paintCell (p : CellPos) (v : Bool) (offs : List Offset) (fb : Buffer) (x y : Coord) :
    testPx (paintCell fb p offs v) x y = if ∃ o ∈ offs, cellPixel p o = (x, y) then v else testPx fb x y := by
  induction offs generalizing fb with
  | nil => simp [paintCell]
  | cons o rest ih =>
    have hstep : paintCell fb p (o :: rest) v =
        paintCell (setPx fb (cellPixel p o).1 (cellPixel p o).2 v) p rest v := rfl
    rw [hstep, ih, testPx_setPx]
    by_cases h1 : ∃ o ∈ rest, cellPixel p o = (x, y)
    · rw [if_pos h1, if_pos]
      obtain ⟨o', ho', he⟩ := h1
      exact ⟨o', List.mem_cons_of_mem _ ho', he⟩
    · rw [if_neg h1]
      by_cases h2 : cellPixel p o = (x, y)
      · rw [if_pos (by simp [h2]), if_pos ⟨o, List.mem_cons_self, h2⟩]
      · rw [if_neg (by rintro ⟨rfl, rfl⟩; exact h2 rfl), if_neg]
        rintro ⟨o', ho', he⟩
        rcases List.mem_cons.mp ho' with rfl | hm
        · exact h2 he
        · exact h1 ⟨o', hm, he⟩

/-- All fifteen offsets are in the cell. -/
theorem mem_cellOffsets (o : Offset) : o ∈ cellOffsets := by
  obtain ⟨dx, dy⟩ := o
  revert dx dy
  decide

end Sys2Proof.Machine
end

