-- ==== Sys2Proof/Laws/Glyphs.lean ====
section
/-! SUPPORT. What the drawing operations do, each said once in the terms of `Safety`: clearing a cell, drawing a digit,
showing the level, setting the markers. -/

namespace Sys2Proof.Machine

/-- An offset's pixel is the pixel asked for exactly when the pixel lies in the cell at that offset. -/
theorem cellPixel_eq_iff (p : CellPos) (o : Offset) (x y : Coord) :
    cellPixel p o = (x, y) ↔ offsetIn p x y = some o := by
  obtain ⟨⟨dx, hdx⟩, ⟨dy, hdy⟩⟩ := o
  obtain ⟨⟨px, hpx⟩, ⟨py, hpy⟩⟩ := p
  obtain ⟨x, hx⟩ := x
  obtain ⟨y, hy⟩ := y
  simp only [cellPixel, offsetIn, Prod.mk.injEq, Fin.mk.injEq]
  split
  · simp only [Option.some.injEq, Prod.mk.injEq, Fin.mk.injEq]
    omega
  · simp only [reduceCtorEq, iff_false]
    omega

/-- A digit's lit offsets are those of its lit segments. -/
theorem mem_glyphOffsets (cfg : Config) (d : Fin 10) (o : Offset) : o ∈ glyphOffsets cfg d ↔ Lights cfg d o := by
  simp only [glyphOffsets, Lights, List.mem_flatMap]
  constructor
  · rintro ⟨i, -, hi⟩
    split at hi
    · next h => exact ⟨i, h, hi⟩
    · cases hi
  · rintro ⟨i, h, hi⟩
    refine ⟨i, by clear h hi; revert i; decide, ?_⟩
    rw [if_pos h]
    exact hi

/-- `ClearCell` clears the cell and nothing else. -/
theorem clearCell_cleared (fb : Buffer) (p : CellPos) : CellCleared p fb (clearCell fb p) := by
  intro x y
  rw [clearCell, testPx_paintCell]
  cases h : offsetIn p x y with
  | none =>
    rw [if_neg, if_neg (by simp)]
    rintro ⟨o, -, ho⟩
    rw [cellPixel_eq_iff, h] at ho
    cases ho
  | some o => rw [if_pos ⟨o, mem_cellOffsets o, (cellPixel_eq_iff p o x y).mpr h⟩, if_pos (by simp)]

/-- `DrawDigit` draws the digit and nothing else. -/
theorem drawDigit_drawn (cfg : Config) (fb : Buffer) (p : CellPos) (d : Fin 10) :
    DigitDrawn cfg p d fb (drawDigit cfg fb p d) := by
  intro x y
  have hc := clearCell_cleared fb p x y
  cases h : offsetIn p x y with
  | none =>
    simp only [drawDigit]
    rw [testPx_paintCell, if_neg, hc, h, if_neg (by simp)]
    rintro ⟨o, -, ho⟩
    rw [cellPixel_eq_iff, h] at ho
    cases ho
  | some o =>
    simp only [drawDigit]
    rw [testPx_paintCell, hc, h]
    by_cases hl : Lights cfg d o
    · simp only [hl, iff_true]
      rw [if_pos ⟨o, (mem_glyphOffsets cfg d o).mpr hl, (cellPixel_eq_iff p o x y).mpr h⟩]
    · rw [if_neg]
      · simp [hl]
      · rintro ⟨o', ho', he⟩
        rw [cellPixel_eq_iff, h, Option.some.injEq] at he
        exact hl ((mem_glyphOffsets cfg d o).mp (he ▸ ho'))

/-- `RenderLevel` shows the level. -/
theorem renderLevel_shown (cfg : Config) (l : Level) (fb : Buffer) : LevelShown cfg l fb (renderLevel cfg l fb) := by
  cases l with
  | auto => exact ⟨clearCell fb cfg.levelTensPos, clearCell_cleared _ _, clearCell_cleared _ _⟩
  | manual n =>
    exact ⟨drawDigit cfg fb cfg.levelTensPos (tensDigit n), drawDigit_drawn _ _ _ _, drawDigit_drawn _ _ _ _⟩

/-- The markers are set and nothing else changes. -/
theorem drawMarkers_set (cfg : Config) (fb : Buffer) : MarkersSet cfg fb (drawMarkers cfg fb) := by
  intro x y
  simp only [drawMarkers]
  generalize cfg.markers = ms
  induction ms generalizing fb with
  | nil => simp
  | cons m rest ih =>
    rw [List.foldl_cons, ih, testPx_setPx]
    by_cases h : x = m.1 ∧ y = m.2
    · obtain ⟨rfl, rfl⟩ := h
      simp
    · have h' : ¬ (x, y) = m := by rintro rfl; exact h ⟨rfl, rfl⟩
      simp [h, h', List.mem_cons]

end Sys2Proof.Machine
end

