-- ==== Sys2Proof/Laws/Brightness.lean ====
section
/-! SUPPORT. What the brightness operations do, each said once: level codes, the sensor map, the update test, and the effect
of an adjustment. -/

namespace Sys2Proof.Machine

/-- The four-bit value in a zero-extended value byte. -/
theorem extract_zext8 (n : BitVec 4) : (zext8 n).extractLsb' 0 4 = n := by revert n; decide

/-- One intensity frame gives every chip the intensity and changes nothing else but the shift registers. -/
theorem intensity_frame_get {cfg : Config} (hw : cfg.wf = true) (c : Chain) (n : BitVec 4) (k : ChipIdx) :
    (c.onEvents cfg (broadcastEvents cfg.regIntensity (zext8 n))).get k =
      { (c.get k).withSr (cfg.regIntensity ++ zext8 n) with intensity := n } := by
  simp only [broadcastEvents, onEvents_frame_get, latch_intensity hw, extract_zext8]

/-- The update test is its three conditions (`44_brightness.md` R160). -/
theorem autoUpdates_iff (cfg : Config) (s : State) : autoUpdates cfg s = true ↔
    s.level = .auto ∧ cfg.autoInterval ≤ elapsed cfg (s.tickNow cfg) s.lastUpdate ∧
      cfg.autoThreshold < readingChange (s.readingNow cfg) s.lastReading := by
  simp only [autoUpdates, Bool.and_eq_true, decide_eq_true_eq, and_assoc]

/-- The wrapped difference as an integer (`44_brightness.md` R162). -/
theorem elapsed_cast (cfg : Config) (now last : Nat) :
    (elapsed cfg now last : Int) = ((now : Int) - last) % (2 ^ cfg.tickW : Nat) := by
  rw [elapsed, Int.toNat_of_nonneg]
  apply Int.emod_nonneg
  have : 0 < 2 ^ cfg.tickW := Nat.two_pow_pos _
  omega

/-- The change of the reading as an absolute value. -/
theorem readingChange_cast (r l : Nat) : ((readingChange r l : Nat) : Int) = |(r : Int) - l| := by
  rw [readingChange, Int.abs_eq_natAbs]

/-- What a poll samples fits the widths of the inputs (`10_state.md` R31, R32). -/
theorem readingNow_lt (cfg : Config) (s : State) : s.readingNow cfg < 2 ^ cfg.sensorW :=
  Nat.mod_lt _ (Nat.two_pow_pos _)

theorem tickNow_lt (cfg : Config) (s : State) : s.tickNow cfg < 2 ^ cfg.tickW :=
  Nat.mod_lt _ (Nat.two_pow_pos _)

/-- The ends of a sensor range differ (`00_scope.md` R4, U14). -/
theorem sensorRange_hi_ne_lo (r : SensorRange) : r.hi ≠ r.lo := by
  simp only [SensorRange.hi, SensorRange.span]
  split <;> omega

/-- The four-bit intensity is the clamped integer, no bit lost. -/
theorem sensorMap_toNat (cfg : Config) (r : Nat) :
    ((sensorMap cfg r).toNat : Int) = sensorMapInt cfg.sensorRange r := by
  have h1 : 0 ≤ sensorMapInt cfg.sensorRange r := by simp only [sensorMapInt]; omega
  have h2 : sensorMapInt cfg.sensorRange r ≤ 15 := by simp only [sensorMapInt]; omega
  simp only [sensorMap, BitVec.toNat_ofNat]
  omega

/-- An adjustment to automatic mode clears the cells and uses no bus. -/
theorem adjustTo_auto (cfg : Config) (s : State) :
    adjustTo cfg .auto s = ((s.setLevel .auto).setFb (renderLevel cfg .auto s.fb)).respond 1 := by
  simp only [adjustTo, pushLevel, State.setLevel_fb]

/-- An adjustment to a manual level, with MANUAL_PUSH, sends one intensity frame and draws the digits. -/
theorem adjustTo_manual {cfg : Config} (h : cfg.manualPush = true) (n : BitVec 4) (s : State) :
    adjustTo cfg (.manual n) s =
      (((s.setLevel (.manual n)).broadcast cfg cfg.regIntensity (zext8 n)).setFb
        (renderLevel cfg (.manual n) s.fb)).respond 1 := by
  simp only [adjustTo, pushLevel, h, if_true, State.broadcast_fb, State.setLevel_fb]

/-- MANUAL_PUSH is on in the machine's configuration. -/
theorem actual_manualPush : Config.actual.manualPush = true := rfl

end Sys2Proof.Machine
end

