-- ==== Sys2Proof/Laws/Encoding.lean ====
section
/-! SUPPORT. The four fields of a command word, and what the decoder answers for each operation code, said once for every
value of the other fields. -/

namespace Sys2Proof

@[simp] theorem opField_formatC (a x y v : BitVec 4) : opField (formatC a x y v) = a := by
  simp only [opField, formatC]
  apply BitVec.eq_of_getLsbD_eq
  intro i hi
  simp only [BitVec.getLsbD_extractLsb', BitVec.getLsbD_append]
  interval_cases i <;> simp

@[simp] theorem xField_formatC (a x y v : BitVec 4) : xField (formatC a x y v) = x := by
  simp only [xField, formatC]
  apply BitVec.eq_of_getLsbD_eq
  intro i hi
  simp only [BitVec.getLsbD_extractLsb', BitVec.getLsbD_append]
  interval_cases i <;> simp

@[simp] theorem yField_formatC (a x y v : BitVec 4) : yField (formatC a x y v) = y := by
  simp only [yField, formatC]
  apply BitVec.eq_of_getLsbD_eq
  intro i hi
  simp only [BitVec.getLsbD_extractLsb', BitVec.getLsbD_append]
  interval_cases i <;> simp

@[simp] theorem vField_formatC (a x y v : BitVec 4) : vField (formatC a x y v) = v := by
  simp only [vField, formatC]
  apply BitVec.eq_of_getLsbD_eq
  intro i hi
  simp only [BitVec.getLsbD_extractLsb', BitVec.getLsbD_append]
  interval_cases i <;> simp

/-- A word is its four fields. -/
theorem formatC_fields (w : Word) : formatC (opField w) (xField w) (yField w) (vField w) = w := by
  simp only [opField, xField, yField, vField, formatC]
  apply BitVec.eq_of_getLsbD_eq
  intro i hi
  simp only [BitVec.getLsbD_extractLsb', BitVec.getLsbD_append]
  interval_cases i <;> simp

/-- Words are equal exactly when their fields are. -/
theorem formatC_inj {a x y v a' x' y' v' : BitVec 4} :
    formatC a x y v = formatC a' x' y' v' ↔ a = a' ∧ x = x' ∧ y = y' ∧ v = v' := by
  constructor
  · intro h
    have h1 := congrArg opField h
    have h2 := congrArg xField h
    have h3 := congrArg yField h
    have h4 := congrArg vField h
    simp only [opField_formatC, xField_formatC, yField_formatC, vField_formatC] at h1 h2 h3 h4
    exact ⟨h1, h2, h3, h4⟩
  · rintro ⟨rfl, rfl, rfl, rfl⟩; rfl

/-- Masking works field by field. -/
theorem formatC_and (a x y v a' x' y' v' : BitVec 4) :
    formatC a x y v &&& formatC a' x' y' v' = formatC (a &&& a') (x &&& x') (y &&& y') (v &&& v') := by
  simp only [formatC]
  apply BitVec.eq_of_getLsbD_eq
  intro i hi
  simp only [BitVec.getLsbD_and, BitVec.getLsbD_append]
  interval_cases i <;> simp

/-- A bit of the low field is that bit of the word. -/
theorem getLsbD_formatC (a x y v : BitVec 4) (i : Nat) (hi : i < 4) : (formatC a x y v).getLsbD i = v.getLsbD i := by
  simp only [formatC, BitVec.getLsbD_append, hi, if_true]

/-- A mask of ones keeps a field. -/
theorem and_fifteen (n : BitVec 4) : n &&& 15#4 = n := by revert n; decide

/-- The mask test of a row, on the fields. -/
theorem formatC_and_eq (a x y v ma mx my mv b : BitVec 4) :
    formatC a x y v &&& formatC ma mx my mv = formatC b 0 0 0 ↔
      a &&& ma = b ∧ x &&& mx = 0 ∧ y &&& my = 0 ∧ v &&& mv = 0 := by
  rw [formatC_and, formatC_inj]

/-- The decoder on an operation code that selects no row. -/
theorem decode_reserved (a x y v : BitVec 4) (h : a.toNat = 0 ∨ 12 ≤ a.toNat) :
    decode (formatC a x y v) = .error .reservedOpcode := by
  have hn : opTable.find? (fun r => opField r.matchBits == opField (formatC a x y v)) = none := by
    rw [opField_formatC]
    revert h
    revert a
    decide
  simp only [decode, hn]

/-- The decoder on a word whose operation code selects the row `r`. -/
theorem decode_row (a x y v : BitVec 4) (r : OpRow)
    (h : opTable.find? (fun r => opField r.matchBits == a) = some r) :
    decode (formatC a x y v) =
      if formatC a x y v &&& r.mask = r.matchBits then .ok (r.build (formatC a x y v)) else .error .nonZeroField := by
  simp only [decode, opField_formatC, h]

theorem decode_setpx (x y v : BitVec 4) : decode (formatC 1 x y v) =
    if v &&& 0xE = 0 then .ok (.setpx x.toFin y.toFin (v.getLsbD 0)) else .error .nonZeroField := by
  rw [decode_row 1 x y v _ rfl]
  have h' : (formatC 1 x y v &&& 0xF00E = 0x1000) ↔ v &&& 0xE = 0 :=
    (formatC_and_eq 1 x y v 0xF 0 0 0xE 1).trans (by simp)
  simp only [h', boolOperand, fieldNat, xField_formatC, yField_formatC, getLsbD_formatC _ _ _ _ 0 (by omega)]

theorem decode_testpx (x y v : BitVec 4) : decode (formatC 2 x y v) =
    if v = 0 then .ok (.testpx x.toFin y.toFin) else .error .nonZeroField := by
  rw [decode_row 2 x y v _ rfl]
  have h' : (formatC 2 x y v &&& 0xF00F = 0x2000) ↔ v = 0 :=
    (formatC_and_eq 2 x y v 0xF 0 0 0xF 2).trans (by simp [and_fifteen])
  simp only [h', fieldNat, xField_formatC, yField_formatC]

theorem decode_setdig (x y v : BitVec 4) : decode (formatC 3 x y v) = .ok (.setdig x.toFin y.toFin v.toFin) := by
  rw [decode_row 3 x y v _ rfl]
  have h' : (formatC 3 x y v &&& 0xF000 = 0x3000) ↔ True :=
    (formatC_and_eq 3 x y v 0xF 0 0 0 3).trans (by simp)
  simp only [h', if_true, fieldNat, xField_formatC, yField_formatC, vField_formatC]

/-- The mask test of a row without operands. -/
theorem noOperands_iff (a x y v : BitVec 4) :
    formatC a x y v &&& 0xFFFF = formatC a 0 0 0 ↔ x = 0 ∧ y = 0 ∧ v = 0 := by
  have h := formatC_and_eq a x y v 0xF 0xF 0xF 0xF a
  exact h.trans (by simp [and_fifteen])

theorem decode_clear (x y v : BitVec 4) : decode (formatC 4 x y v) =
    if x = 0 ∧ y = 0 ∧ v = 0 then .ok .clear else .error .nonZeroField := by
  rw [decode_row 4 x y v _ rfl]
  simp only [show (0x4000 : Word) = formatC 4 0 0 0 from rfl, noOperands_iff]

theorem decode_isempty (x y v : BitVec 4) : decode (formatC 5 x y v) =
    if x = 0 ∧ y = 0 ∧ v = 0 then .ok .isempty else .error .nonZeroField := by
  rw [decode_row 5 x y v _ rfl]
  simp only [show (0x5000 : Word) = formatC 5 0 0 0 from rfl, noOperands_iff]

theorem decode_flush (x y v : BitVec 4) : decode (formatC 6 x y v) =
    if x = 0 ∧ y = 0 ∧ v = 0 then .ok .flush else .error .nonZeroField := by
  rw [decode_row 6 x y v _ rfl]
  simp only [show (0x6000 : Word) = formatC 6 0 0 0 from rfl, noOperands_iff]

theorem decode_beginadj (x y v : BitVec 4) : decode (formatC 7 x y v) =
    if x = 0 ∧ y = 0 ∧ v = 0 then .ok .beginadj else .error .nonZeroField := by
  rw [decode_row 7 x y v _ rfl]
  simp only [show (0x7000 : Word) = formatC 7 0 0 0 from rfl, noOperands_iff]

theorem decode_stepadj (x y v : BitVec 4) : decode (formatC 8 x y v) =
    if x = 0 ∧ y = 0 ∧ v &&& 0xC = 0 then .ok (.stepadj (eventOperand (formatC 0 0 0 v))) else .error .nonZeroField := by
  rw [decode_row 8 x y v _ rfl]
  have h' : (formatC 8 x y v &&& 0xFFFC = 0x8000) ↔ x = 0 ∧ y = 0 ∧ v &&& 0xC = 0 :=
    (formatC_and_eq 8 x y v 0xF 0xF 0xF 0xC 8).trans (by simp [and_fifteen])
  simp only [h', eventOperand, getLsbD_formatC _ _ _ _ 0 (by omega), getLsbD_formatC _ _ _ _ 1 (by omega)]

theorem decode_pollauto (x y v : BitVec 4) : decode (formatC 9 x y v) =
    if x = 0 ∧ y = 0 ∧ v = 0 then .ok .pollauto else .error .nonZeroField := by
  rw [decode_row 9 x y v _ rfl]
  simp only [show (0x9000 : Word) = formatC 9 0 0 0 from rfl, noOperands_iff]

theorem decode_settest (x y v : BitVec 4) : decode (formatC 10 x y v) =
    if x = 0 ∧ y = 0 ∧ v &&& 0xE = 0 then .ok (.settest (v.getLsbD 0)) else .error .nonZeroField := by
  rw [decode_row 10 x y v _ rfl]
  have h' : (formatC 10 x y v &&& 0xFFFE = 0xA000) ↔ x = 0 ∧ y = 0 ∧ v &&& 0xE = 0 :=
    (formatC_and_eq 10 x y v 0xF 0xF 0xF 0xE 10).trans (by simp [and_fifteen])
  simp only [h', boolOperand, getLsbD_formatC _ _ _ _ 0 (by omega)]

theorem decode_dump (x y v : BitVec 4) : decode (formatC 11 x y v) =
    if x = 0 ∧ y = 0 ∧ v = 0 then .ok .dump else .error .nonZeroField := by
  rw [decode_row 11 x y v _ rfl]
  simp only [show (0xB000 : Word) = formatC 11 0 0 0 from rfl, noOperands_iff]

end Sys2Proof
end

