-- ==== Sys2Proof/Laws/Flush.lean ====
section
/-! SUPPORT. What FLUSH's steps do: a search that is sound finds the first differing row; one word, one frame and a run of
frames, each said once. -/

namespace Sys2Proof.Machine

/-- The differing rows are listed in strictly increasing order. -/
theorem diffRows_sorted (fb sb : Buffer) (c : ChipIdx) : (diffRows fb sb c).Pairwise (· < ·) := by
  apply List.Pairwise.filter
  decide

/-- A row is listed exactly when it differs. -/
theorem mem_diffRows (fb sb : Buffer) (c : ChipIdx) (k : DigitIdx) :
    k ∈ diffRows fb sb c ↔ Buffer.read fb c k ≠ Buffer.read sb c k := by
  simp [diffRows, List.mem_filter, mem_digitIdxs]

/-- No row listed for any chip: the register files are equal. -/
theorem eq_of_diffRows_nil {fb sb : Buffer} (h : ∀ c, diffRows fb sb c = []) : sb = fb := by
  apply buffer_ext
  intro c d
  by_contra hne
  have : d ∈ diffRows fb sb c := (mem_diffRows fb sb c d).mpr fun he => hne he.symm
  rw [h c] at this
  cases this

/-- A sound search finds the first differing row. -/
theorem nextRow_eq_head (fb sb : Buffer) (c : ChipIdx) (start : Fin 9)
    (h : ∀ k : DigitIdx, k.val < start.val → Buffer.read fb c k = Buffer.read sb c k) :
    nextRow fb sb c start = (diffRows fb sb c).head? := by
  rw [diffRows, List.head?_filter, nextRow]
  congr 1
  funext k
  by_cases hd : Buffer.read fb c k = Buffer.read sb c k
  · simp [rowDiffers, hd]
  · have : start.val ≤ k.val := by
      by_contra hlt
      exact hd (h k (by omega))
    simp [rowDiffers, hd, this]

/-- Writing a row of SB with its FB byte takes that row off the list of its chip and leaves the other lists. -/
theorem diffRows_write (fb sb : Buffer) (c c' : ChipIdx) (k : DigitIdx) :
    diffRows fb (Buffer.write sb c k (Buffer.read fb c k)) c' =
      if c' = c then (diffRows fb sb c).filter (· ≠ k) else diffRows fb sb c' := by
  split
  · next h =>
    subst h
    simp only [diffRows, List.filter_filter]
    congr 1
    funext j
    rw [read_write]
    by_cases hj : j = k
    · subst hj; simp
    · simp [hj]
  · next h =>
    simp only [diffRows]
    congr 1
    funext j
    rw [read_write, if_neg (fun hh => h hh.1)]

/-- The first row taken off a list of differing rows leaves the rest. -/
theorem diffRows_filter_head {fb sb : Buffer} {c : ChipIdx} {k : DigitIdx} {rest : List DigitIdx}
    (h : diffRows fb sb c = k :: rest) : (diffRows fb sb c).filter (· ≠ k) = rest := by
  have hs := diffRows_sorted fb sb c
  rw [h] at hs ⊢
  have hk : ∀ j ∈ rest, k < j := fun j hj => List.rel_of_pairwise_cons hs hj
  rw [List.filter_cons_of_neg (by simp), List.filter_eq_self]
  intro j hj
  have hkj := hk j hj
  simpa using ne_of_gt hkj

/-- One word of FLUSH: the first differing row of the chip whose turn it is, or the no-operation word; that row is
reconciled, the search stays sound, nothing else changes (`42_flush.md` R123, R124, R129). -/
theorem flushWord_spec (cfg : Config) (s : State) (p : Fin 4) (h : SearchSound s) :
    ∃ (b : Buffer) (q : FlushSeq),
      flushWord cfg s p =
        ((s.emit cfg (wordEvents (plannedFrame cfg s.fb s.sb 0 (chainOrder.get p)))).setSb b).setSeq q ∧
      SearchSound (flushWord cfg s p) ∧
      ∀ c', diffRows s.fb b c' =
        if c' = chainOrder.get p then (diffRows s.fb s.sb c').tail else diffRows s.fb s.sb c' := by
  have hn := nextRow_eq_head s.fb s.sb (chainOrder.get p) (s.seq.next.get (chainOrder.get p)) (h _)
  generalize hc : chainOrder.get p = c at hn ⊢
  cases hd : diffRows s.fb s.sb c with
  | nil =>
    rw [hd] at hn
    have he : flushWord cfg s p =
        ((s.emit cfg (wordEvents (cfg.regNoop, cfg.noopVal))).setSb s.sb).setSeq
          { s.seq with pos := p, next := s.seq.next.set c.val 8 } := by
      simp only [flushWord, hc, State.setSeq_fb, State.setSeq_sb, State.setSeq_seq, hn, List.head?_nil]
      rfl
    refine ⟨s.sb, { s.seq with pos := p, next := s.seq.next.set c.val 8 }, ?_, ?_, ?_⟩
    · rw [he]
      simp only [plannedFrame, hd, List.getElem?_nil]
    · rw [he]
      intro c' k hk
      simp only [State.setSeq_fb, State.setSb_fb, State.emit_fb, State.setSeq_sb, State.setSb_sb]
      by_cases hcc : c' = c
      · subst hcc
        by_contra hne
        have := (mem_diffRows s.fb s.sb c' k).mpr hne
        rw [hd] at this
        cases this
      · apply h
        simp only [State.setSeq_seq, Vector.get_eq_getElem, Vector.getElem_set] at hk
        rw [if_neg (fun hh => hcc (Fin.ext hh.symm))] at hk
        exact hk
    · intro c'
      split
      · next hcc => subst hcc; rw [hd]; rfl
      · rfl
  | cons k rest =>
    rw [hd] at hn
    have he : flushWord cfg s p =
        ((s.emit cfg (wordEvents (digitReg k, Buffer.read s.fb c k))).setSb
          (Buffer.write s.sb c k (Buffer.read s.fb c k))).setSeq
          { s.seq with pos := p, next := s.seq.next.set c.val (afterRow k) } := by
      simp only [flushWord, hc, State.setSeq_fb, State.setSeq_sb, State.setSeq_seq, hn, List.head?_cons]
      rfl
    refine ⟨Buffer.write s.sb c k (Buffer.read s.fb c k),
      { s.seq with pos := p, next := s.seq.next.set c.val (afterRow k) }, ?_, ?_, ?_⟩
    · rw [he]
      simp only [plannedFrame, hd, List.getElem?_cons_zero]
      rfl
    · rw [he]
      intro c' j hj
      simp only [State.setSeq_fb, State.setSb_fb, State.emit_fb, State.setSeq_sb, State.setSb_sb]
      by_cases hcc : c' = c
      · subst hcc
        simp only [State.setSeq_seq, Vector.get_eq_getElem, Vector.getElem_set_self, afterRow] at hj
        by_contra hne
        have hw := diffRows_write s.fb s.sb c' c' k
        rw [if_pos rfl, diffRows_filter_head hd] at hw
        have hm := (mem_diffRows _ _ c' j).mpr hne
        rw [hw] at hm
        have hs := diffRows_sorted s.fb s.sb c'
        rw [hd] at hs
        have hkj : k < j := List.rel_of_pairwise_cons hs hm
        have hkj' : k.val < j.val := hkj
        omega
      · rw [read_write, if_neg (fun hh => hcc hh.1)]
        apply h
        simp only [State.setSeq_seq, Vector.get_eq_getElem, Vector.getElem_set] at hj
        rw [if_neg (fun hh => hcc (Fin.ext hh.symm))] at hj
        exact hj
    · intro c'
      rw [diffRows_write]
      split
      · next hcc => subst hcc; rw [diffRows_filter_head hd, hd]; rfl
      · rfl

/-- A planned word depends only on FB and on the chip's own list of differing rows. -/
theorem plannedFrame_congr (cfg : Config) {fb sb sb' : Buffer} {c : ChipIdx} {j j' : Nat}
    (h : (diffRows fb sb c)[j]? = (diffRows fb sb' c)[j']?) :
    plannedFrame cfg fb sb j c = plannedFrame cfg fb sb' j' c := by
  simp only [plannedFrame, h]

/-- Four words of FLUSH in the order of CHAIN_ORDER, from a sound state. -/
theorem flushWords_spec (cfg : Config) (s : State) (h : SearchSound s) :
    ∃ (b : Buffer) (q : FlushSeq),
      flushWord cfg (flushWord cfg (flushWord cfg (flushWord cfg s 0) 1) 2) 3 =
        ((s.emit cfg (wordEvents (plannedFrame cfg s.fb s.sb 0 3) ++ wordEvents (plannedFrame cfg s.fb s.sb 0 2) ++
          wordEvents (plannedFrame cfg s.fb s.sb 0 1) ++ wordEvents (plannedFrame cfg s.fb s.sb 0 0))).setSb b).setSeq q ∧
      SearchSound (flushWord cfg (flushWord cfg (flushWord cfg (flushWord cfg s 0) 1) 2) 3) ∧
      ∀ c, diffRows s.fb b c = (diffRows s.fb s.sb c).tail := by
  obtain ⟨b1, q1, e1, h1, d1⟩ := flushWord_spec cfg s 0 h
  obtain ⟨b2, q2, e2, h2, d2⟩ := flushWord_spec cfg _ 1 h1
  obtain ⟨b3, q3, e3, h3, d3⟩ := flushWord_spec cfg _ 2 h2
  obtain ⟨b4, q4, e4, h4, d4⟩ := flushWord_spec cfg _ 3 h3
  refine ⟨b4, q4, ?_, h4, ?_⟩
  all_goals
    clear h1 h2 h3 h4
    generalize flushWord cfg (flushWord cfg (flushWord cfg (flushWord cfg s 0) 1) 2) 3 = t4 at *
    generalize flushWord cfg (flushWord cfg (flushWord cfg s 0) 1) 2 = t3 at *
    generalize flushWord cfg (flushWord cfg s 0) 1 = t2 at *
    generalize flushWord cfg s 0 = t1 at *
    have f1 : t1.fb = s.fb := by rw [e1]; rfl
    have f2 : t2.fb = s.fb := by rw [e2]; exact f1
    have f3 : t3.fb = s.fb := by rw [e3]; exact f2
    have g1 : t1.sb = b1 := by rw [e1]; rfl
    have g2 : t2.sb = b2 := by rw [e2]; rfl
    have g3 : t3.sb = b3 := by rw [e3]; rfl
    rw [f1, g1] at d2 e2
    rw [f2, g2] at d3 e3
    rw [f3, g3] at d4 e4
    simp only [show chainOrder.get 0 = 3 from rfl, show chainOrder.get 1 = 2 from rfl,
      show chainOrder.get 2 = 1 from rfl, show chainOrder.get 3 = 0 from rfl] at d1 d2 d3 d4 e1 e2 e3 e4
  · have p2 : plannedFrame cfg s.fb b1 0 2 = plannedFrame cfg s.fb s.sb 0 2 :=
      plannedFrame_congr cfg (by rw [d1, if_neg (by decide)])
    have p1 : plannedFrame cfg s.fb b2 0 1 = plannedFrame cfg s.fb s.sb 0 1 :=
      plannedFrame_congr cfg (by rw [d2, if_neg (by decide), d1, if_neg (by decide)])
    have p0 : plannedFrame cfg s.fb b3 0 0 = plannedFrame cfg s.fb s.sb 0 0 :=
      plannedFrame_congr cfg (by rw [d3, if_neg (by decide), d2, if_neg (by decide), d1, if_neg (by decide)])
    rw [p0] at e4
    rw [p1] at e3
    rw [p2] at e2
    rw [e4, e3, e2, e1, emit_append, emit_append, emit_append]
    rfl
  · intro c
    rw [d4, d3, d2, d1]
    revert c
    intro c
    fin_cases c
    · rw [if_pos (by decide), if_neg (by decide), if_neg (by decide), if_neg (by decide)]
    · rw [if_neg (by decide), if_pos (by decide), if_neg (by decide), if_neg (by decide)]
    · rw [if_neg (by decide), if_neg (by decide), if_pos (by decide), if_neg (by decide)]
    · rw [if_neg (by decide), if_neg (by decide), if_neg (by decide), if_pos (by decide)]

/-- One frame of FLUSH: the first planned frame; every chip's first differing row is reconciled, the search stays sound,
nothing else changes (`42_flush.md` R121, R128). -/
theorem flushFrame_spec (cfg : Config) (s : State) (f : Fin 8) (h : SearchSound s) :
    ∃ (b : Buffer) (q : FlushSeq),
      flushFrame cfg s f = ((s.emit cfg (frameEvents (plannedFrame cfg s.fb s.sb 0))).setSb b).setSeq q ∧
      SearchSound (flushFrame cfg s f) ∧ ∀ c, diffRows s.fb b c = (diffRows s.fb s.sb c).tail := by
  obtain ⟨b, q, e, hs, d⟩ := flushWords_spec cfg (s.setSeq { s.seq with frame := f }) h
  have hf : flushFrame cfg s f = (flushWord cfg (flushWord cfg (flushWord cfg (flushWord cfg
      (s.setSeq { s.seq with frame := f }) 0) 1) 2) 3).emit cfg strobeEvents := by
    simp only [flushFrame, List.foldl_cons, List.foldl_nil]
  rw [hf]
  generalize flushWord cfg (flushWord cfg (flushWord cfg (flushWord cfg
      (s.setSeq { s.seq with frame := f }) 0) 1) 2) 3 = t at *
  rw [State.setSeq_fb, State.setSeq_sb] at e
  refine ⟨b, q, ?_, fun c k hk => hs c k hk, d⟩
  rw [e, frameEvents_eq, emit_append cfg s _ strobeEvents]
  generalize wordEvents (plannedFrame cfg s.fb s.sb 0 3) ++ wordEvents (plannedFrame cfg s.fb s.sb 0 2) ++
          wordEvents (plannedFrame cfg s.fb s.sb 0 1) ++ wordEvents (plannedFrame cfg s.fb s.sb 0 0) = es
  generalize strobeEvents = fs
  rfl

/-- A run of frames of FLUSH, from a sound state: as many planned frames; as many rows off each list. -/
theorem flushFrames_spec (cfg : Config) (fs : List (Fin 8)) (s : State) (h : SearchSound s) :
    ∃ (b : Buffer) (q : FlushSeq),
      fs.foldl (flushFrame cfg) s =
        ((s.emit cfg (framesEvents ((List.range fs.length).map (plannedFrame cfg s.fb s.sb)))).setSb b).setSeq q ∧
      ∀ c, diffRows s.fb b c = (diffRows s.fb s.sb c).drop fs.length := by
  induction fs generalizing s with
  | nil => exact ⟨s.sb, s.seq, by simp [emit_nil, State.setSb, State.setSeq], fun c => rfl⟩
  | cons f fs ih =>
    obtain ⟨b1, q1, e1, h1, d1⟩ := flushFrame_spec cfg s f h
    obtain ⟨b, q, e, d⟩ := ih _ h1
    refine ⟨b, q, ?_, ?_⟩
    · rw [List.foldl_cons, e, e1]
      simp only [State.setSeq_fb, State.setSeq_sb, State.setSb_fb, State.setSb_sb, State.emit_fb]
      have hp : (List.range fs.length).map (plannedFrame cfg s.fb b1) =
          (List.range fs.length).map (fun j => plannedFrame cfg s.fb s.sb (j + 1)) := by
        apply List.map_congr_left
        intro j _
        funext c
        exact plannedFrame_congr cfg (by rw [d1, List.getElem?_tail])
      rw [hp, List.length_cons, List.range_succ_eq_map, List.map_cons, List.map_map, framesEvents_cons, emit_append]
      rfl
    · intro c
      rw [e1] at d
      simp only [State.setSeq_fb, State.setSeq_sb, State.setSb_fb, State.setSb_sb, State.emit_fb] at d
      rw [d, d1, List.length_cons, List.drop_tail]

/-- MAXCOUNT is the number of frames needed (`42_flush.md` R122, R127). -/
theorem maxDiffCount_val (fb sb : Buffer) : (maxDiffCount fb sb).val = framesNeeded fb sb := by
  have hm : ∀ a b : Fin 9, (max a b).val = max a.val b.val := by decide
  simp only [maxDiffCount, hm]
  rfl

theorem framesNeeded_le (fb sb : Buffer) : framesNeeded fb sb ≤ 8 := by
  rw [← maxDiffCount_val]
  omega

/-- No chip has more differing rows than frames are needed. -/
theorem diffRows_length_le (fb sb : Buffer) (c : ChipIdx) : (diffRows fb sb c).length ≤ framesNeeded fb sb := by
  simp only [framesNeeded]
  fin_cases c <;> simp

end Sys2Proof.Machine
end

