-- ==== Sys2Proof/Laws/PerInstr.lean ====
section
/-! SUPPORT. Statements made instruction by instruction, one lemma per constructor of `Instr`. -/

namespace Sys2Proof.Laws

/-- The operation code of each command (`30_encoding.md` R82). -/
def opOf : Instr → BitVec 4
  | .setpx _ _ _ => 0x1
  | .testpx _ _ => 0x2
  | .setdig _ _ _ => 0x3
  | .clear => 0x4
  | .isempty => 0x5
  | .flush => 0x6
  | .beginadj => 0x7
  | .stepadj _ => 0x8
  | .pollauto => 0x9
  | .settest _ => 0xA
  | .dump => 0xB

/-- The command's word carries its operation code, and that code selects a row of the command table. -/
def SelectsRow.Statement (i : Instr) : Prop :=
  opField (encode i) = opOf i ∧ (opTable.find? fun r => opField r.matchBits == opOf i).isSome = true

theorem SelectsRow.setpx (x y : Coord) (b : Bool) : SelectsRow.Statement (.setpx x y b) :=
  ⟨opField_formatC _ _ _ _, rfl⟩
theorem SelectsRow.testpx (x y : Coord) : SelectsRow.Statement (.testpx x y) := ⟨opField_formatC _ _ _ _, rfl⟩
theorem SelectsRow.setdig (x y : Coord) (d : Fin 16) : SelectsRow.Statement (.setdig x y d) :=
  ⟨opField_formatC _ _ _ _, rfl⟩
theorem SelectsRow.clear : SelectsRow.Statement .clear := ⟨opField_formatC _ _ _ _, rfl⟩
theorem SelectsRow.isempty : SelectsRow.Statement .isempty := ⟨opField_formatC _ _ _ _, rfl⟩
theorem SelectsRow.flush : SelectsRow.Statement .flush := ⟨opField_formatC _ _ _ _, rfl⟩
theorem SelectsRow.beginadj : SelectsRow.Statement .beginadj := ⟨opField_formatC _ _ _ _, rfl⟩
theorem SelectsRow.stepadj (ev : Event) : SelectsRow.Statement (.stepadj ev) := ⟨opField_formatC _ _ _ _, rfl⟩
theorem SelectsRow.pollauto : SelectsRow.Statement .pollauto := ⟨opField_formatC _ _ _ _, rfl⟩
theorem SelectsRow.settest (b : Bool) : SelectsRow.Statement (.settest b) := ⟨opField_formatC _ _ _ _, rfl⟩
theorem SelectsRow.dump : SelectsRow.Statement .dump := ⟨opField_formatC _ _ _ _, rfl⟩

end Sys2Proof.Laws
end

