-- ==== Sys2Proof/Laws/Step.lean ====
section
/-! SUPPORT. What the operations around a command do, each said once: taking a fault, the block's idle turn, the host's turn;
and that every meaning answers a next state. -/

namespace Sys2Proof.Machine

/-- Taking a fault sets FAULT, the model's label and response 3, and nothing else (`60_exceptions.md` R183). -/
theorem raiseFault_eq (r : FaultReason) (s : State) :
    raiseFault r s = { s with fault := true, faultReason := some r, response := some 3 } := rfl

/-- The block's turn under `rst`. -/
theorem blockIdle_reset (cfg : Config) {s : State} (h : s.pins.rst = true) : blockIdle cfg s = blockReset cfg s := by
  simp only [blockIdle, h, if_true]

/-- The block's turn in phase Boot. -/
theorem blockIdle_boot (cfg : Config) {s : State} (h : s.pins.rst = false) (hp : s.phase = .boot) :
    blockIdle cfg s = boot cfg (s.setResponse none) := by
  simp [blockIdle, h, hp]

/-- The block's turn in phase Run, ready or faulted. -/
theorem blockIdle_run (cfg : Config) {s : State} (h : s.pins.rst = false) (hp : s.phase = .run) :
    blockIdle cfg s = s.setResponse none := by
  simp [blockIdle, h, hp]

/-- A turn in which a word is accepted that decodes to a command. -/
theorem turn_ok (cfg : Config) (run : Instr → State → Host.Outcome State Fault Refusal) {s : State} {w : Word} {i : Instr}
    (h : s.accepted = some w) (hd : decode w = .ok i) : turn cfg run s = mapNext hostTurn (run i s) := by
  simp only [turn, h, hd]

/-- A turn in which a word is accepted that is no command. -/
theorem turn_error (cfg : Config) (run : Instr → State → Host.Outcome State Fault Refusal) {s : State} {w : Word}
    {r : FaultReason} (h : s.accepted = some w) (hd : decode w = .error r) :
    turn cfg run s = .next (hostTurn (raiseFault r s)) := by
  simp only [turn, h, hd]

/-- A turn in which no word is accepted. -/
theorem turn_none (cfg : Config) (run : Instr → State → Host.Outcome State Fault Refusal) {s : State}
    (h : s.accepted = none) : turn cfg run s = .next (hostTurn (blockIdle cfg s)) := by
  simp only [turn, h]

/-- What a turn can do when the meanings answer next states: run a command, take the fault of a word that is none, or the
block's idle turn; then the host's. -/
theorem stepOn_cases (cfg : Config) {s t : State} (h : stepOn cfg s = .next t) :
    (∃ (w : Word) (i : Instr), s.accepted = some w ∧ decode w = .ok i ∧ t = hostTurn (execOn cfg i s)) ∨
      (∃ (w : Word) (r : FaultReason), s.accepted = some w ∧ decode w = .error r ∧ t = hostTurn (raiseFault r s)) ∨
      (s.accepted = none ∧ t = hostTurn (blockIdle cfg s)) := by
  cases ha : s.accepted with
  | none =>
    rw [stepOn, turn_none _ _ ha] at h
    cases h
    exact .inr (.inr ⟨rfl, rfl⟩)
  | some w =>
    cases hd : decode w with
    | ok i =>
      rw [stepOn, turn_ok _ _ ha hd] at h
      cases h
      exact .inl ⟨w, i, rfl, hd, rfl⟩
    | error r =>
      rw [stepOn, turn_error _ _ ha hd] at h
      cases h
      exact .inr (.inl ⟨w, r, rfl, hd, rfl⟩)

/-- The reset of the block keeps the chips and the host. -/
@[simp] theorem blockReset_chain (cfg : Config) (s : State) : (blockReset cfg s).chain = s.chain := rfl
@[simp] theorem blockReset_pins (cfg : Config) (s : State) : (blockReset cfg s).pins = s.pins := rfl
@[simp] theorem blockReset_hostPlan (cfg : Config) (s : State) : (blockReset cfg s).hostPlan = s.hostPlan := rfl
@[simp] theorem blockReset_freeCtr (cfg : Config) (s : State) : (blockReset cfg s).freeCtr = s.freeCtr := rfl

/-- The host's turn replaces the host's pins and plan and nothing else. -/
theorem hostTurn_eq_setHost (s : State) : ∃ (p : HostPins) (l : List HostPins), hostTurn s = s.setHost p l := by
  unfold hostTurn
  split
  · exact ⟨_, _, rfl⟩
  · exact ⟨_, _, rfl⟩

/-- Every meaning answers a next state: no command ends a run. -/
theorem exec_answers (i : Instr) (s : State) : ∃ t : State, exec i s = .next t := by
  cases i <;> exact ⟨_, rfl⟩

end Sys2Proof.Machine
end

