-- ==== Sys2Proof/Tests/Slice0.lean ====
section
/-! SUPPORT. Tests. Expected results are `95_test_vectors.md`'s (V<n>, P<n>, S<n>); the words are written out from
`30_encoding.md` R82. The last part shows, for each statement with hypotheses, a case that meets them. -/

namespace Sys2Proof.Tests

open Sys2Proof Sys2Proof.Machine

/-! ### Helpers -/

/-- The next state of an outcome. -/
def nextOf : Host.Outcome State Fault Refusal → Option State
  | .next s => some s
  | .fault _ => none
  | .refused _ => none

/-- A chip as boot leaves it (V70). -/
def bootedChip : Chip := { resetChip with scanLimit := 7, shutdown := 1, intensity := 8 }

/-- The state after boot (`10_state.md` R39), without the boot frames in the trace. -/
def booted : State := { State.reset with phase := .run, chain := Vector.replicate 4 bootedChip }

/-- The host presents a word. -/
def presenting (w : Word) (s : State) : State := { s with pins := { idlePins with cmdValid := true, cmd := w } }

/-- The host presents the word and one step is taken. -/
def after (w : Word) (s : State) : Option State := nextOf (step (presenting w s))

/-- The bus events of frames written as in `95_test_vectors.md`: words in transmission order, then a strobe. -/
def frames (fs : List (List (Byte × Byte))) : List BusEvent :=
  fs.flatMap fun ws =>
    (ws.flatMap fun w => ((List.range 8).map fun i => BusEvent.bit (w.1.getLsbD (7 - i))) ++
      (List.range 8).map fun i => BusEvent.bit (w.2.getLsbD (7 - i))) ++ [.strobeLow, .strobeHigh]

/-- A frame with the same word for all chips. -/
def allChips (r v : Byte) : List (Byte × Byte) := [(r, v), (r, v), (r, v), (r, v)]

/-! ### Well-formedness -/

theorem test_wf_refuses_digit_ten : (Instr.setdig 0 0 10).digitOk = false ∧ (Instr.setdig 0 0 10).wf = false := by decide
theorem test_wf_refuses_wide_cell : (Instr.setdig 14 0 1).cellOk = false ∧ (Instr.setdig 14 0 1).wf = false := by decide
theorem test_wf_refuses_low_cell : (Instr.setdig 0 12 0).cellOk = false ∧ (Instr.setdig 0 12 0).wf = false := by decide
theorem test_wf_accepts_largest_corner : (Instr.setdig 13 11 9).wf = true := by decide

/-! ### Decoding: every constructor, its word written out bit by bit (`30_encoding.md` R82; V10) -/

theorem test_decode_setpx : decode 0b0001_0111_0000_0001 = .ok (.setpx 7 0 true) := by decide
theorem test_decode_testpx : decode 0b0010_0011_0101_0000 = .ok (.testpx 3 5) := by decide
theorem test_decode_setdig : decode 0b0011_1101_1011_1001 = .ok (.setdig 13 11 9) := by decide
theorem test_decode_clear : decode 0b0100_0000_0000_0000 = .ok .clear := by decide
theorem test_decode_isempty : decode 0b0101_0000_0000_0000 = .ok .isempty := by decide
theorem test_decode_flush : decode 0b0110_0000_0000_0000 = .ok .flush := by decide
theorem test_decode_beginadj : decode 0b0111_0000_0000_0000 = .ok .beginadj := by decide
theorem test_decode_stepadj :
    decode 0b1000_0000_0000_0000 = .ok (.stepadj .none) ∧ decode 0b1000_0000_0000_0001 = .ok (.stepadj .inc) ∧
      decode 0b1000_0000_0000_0010 = .ok (.stepadj .dec) ∧ decode 0b1000_0000_0000_0011 = .ok (.stepadj .confirm) := by
  decide
theorem test_decode_pollauto : decode 0b1001_0000_0000_0000 = .ok .pollauto := by decide
theorem test_decode_settest :
    decode 0b1010_0000_0000_0000 = .ok (.settest false) ∧ decode 0b1010_0000_0000_0001 = .ok (.settest true) := by decide
theorem test_decode_dump : decode 0b1011_0000_0000_0000 = .ok .dump := by decide

/-- V12, the words that fault in decode. -/
theorem test_decode_reserved :
    decode 0x0000 = .error .reservedOpcode ∧ decode 0xFFFF = .error .reservedOpcode ∧
      decode 0xC000 = .error .reservedOpcode := by decide
theorem test_decode_nonzero_fields :
    decode 0x1002 = .error .nonZeroField ∧ decode 0x2001 = .error .nonZeroField ∧
      decode 0x4001 = .error .nonZeroField ∧ decode 0x5100 = .error .nonZeroField ∧
      decode 0x6010 = .error .nonZeroField ∧ decode 0x7001 = .error .nonZeroField ∧
      decode 0x8004 = .error .nonZeroField ∧ decode 0x9001 = .error .nonZeroField ∧
      decode 0xA002 = .error .nonZeroField ∧ decode 0xB800 = .error .nonZeroField := by decide

/-- The table's numbering: a command is 16 bits, and a wider value is none. -/
theorem test_table_word :
    decodeTableWord 16 0x1C31 = some (.setpx 12 3 true) ∧ decodeTableWord 32 0x10001000 = none ∧
      decodeTableWord 16 0xC000 = none := by decide +kernel

/-! ### FrameBuffer commands -/

/-- V20. -/
theorem test_setpx_sets_bit_zero :
    ((after 0x1701 booted).map fun t => (t.fb, t.sb, t.response, t.trace)) =
      some (zeroBuffer.set 0 #v[0x01, 0, 0, 0, 0, 0, 0, 0], zeroBuffer, some 0, []) := by decide +kernel

/-- V24: clearing one pixel keeps the other bits. -/
theorem test_setpx_clears_one_of_ones :
    ((after 0x1920 { booted with fb := zeroBuffer.set 1 #v[0, 0, 0xFF, 0, 0, 0, 0, 0] }).map (·.fb)) =
      some (zeroBuffer.set 1 #v[0, 0, 0xBF, 0, 0, 0, 0, 0]) := by decide +kernel

/-- V21. -/
theorem test_testpx_reads_the_pixel :
    ([0x2CC0, 0x2BC0, 0x2CB0, 0x2440] : List Word).map (fun w =>
      (after w { booted with fb := zeroBuffer.set 3 #v[0, 0, 0, 0, 0x08, 0, 0, 0] }).bind (·.response)) =
      [some 1, some 0, some 0, some 0] := by decide +kernel

/-- V23: CLEAR zeroes FB and leaves SB and the bus. -/
theorem test_clear_leaves_sb :
    ((after 0x4000 { booted with
        fb := Vector.replicate 4 (Vector.replicate 8 0xA5), sb := zeroBuffer.set 0 #v[0x80, 0, 0, 0, 0, 0, 0, 0] }).map
      fun t => (t.fb, t.sb, t.trace, t.response)) =
      some (zeroBuffer, zeroBuffer.set 0 #v[0x80, 0, 0, 0, 0, 0, 0, 0], [], some 0) := by decide +kernel

/-- V22. -/
theorem test_isempty_zero : (after 0x5000 booted).bind (·.response) = some 1 := by decide +kernel
theorem test_isempty_last_bit :
    (after 0x5000 { booted with fb := zeroBuffer.set 3 #v[0, 0, 0, 0, 0, 0, 0, 0x01] }).bind (·.response) = some 0 := by
  decide +kernel

/-! ### SETDIG -/

/-- V62: a cell across four chips. -/
theorem test_setdig_across_chips :
    ((after 0x3668 booted).map (·.fb)) = some
      #v[#v[0, 0, 0, 0, 0, 0, 0x03, 0x02], #v[0, 0, 0, 0, 0, 0, 0x80, 0x80], #v[0x03, 0x02, 0x03, 0, 0, 0, 0, 0],
        #v[0x80, 0x80, 0x80, 0, 0, 0, 0, 0]] := by decide +kernel

/-- V63: only the cell changes. -/
theorem test_setdig_over_ones :
    ((after 0x3551 { booted with fb := Vector.replicate 4 (Vector.replicate 8 0xFF) }).map (·.fb)) = some
      #v[#v[0xFF, 0xFF, 0xFF, 0xFF, 0xFF, 0xF9, 0xF9, 0xF9], Vector.replicate 8 0xFF,
        #v[0xF9, 0xF9, 0xFF, 0xFF, 0xFF, 0xFF, 0xFF, 0xFF], Vector.replicate 8 0xFF] := by decide +kernel

/-! ### FLUSH -/

/-- FB of V31. -/
def fbV31 : Buffer :=
  #v[#v[0x80, 0, 0, 0, 0, 0x10, 0, 0], #v[0, 0, 0x40, 0, 0, 0, 0, 0], Vector.replicate 8 0,
    #v[0x80, 0, 0, 0, 0x08, 0, 0, 0x01]]

/-- V31. -/
theorem test_flush_frames :
    ((after 0x6000 { booted with fb := fbV31 }).map fun t => (t.trace, t.sb, t.response)) = some
      (frames [[(0x01, 0x80), (0, 0), (0x03, 0x40), (0x01, 0x80)], [(0x05, 0x08), (0, 0), (0, 0), (0x06, 0x10)],
        [(0x08, 0x01), (0, 0), (0, 0), (0, 0)]], fbV31, some 0) := by decide +kernel

/-- V30: no difference, no bus event. -/
theorem test_flush_nothing :
    ((after 0x6000 { booted with fb := fbV31, sb := fbV31 }).map fun t => (t.trace, t.response)) = some ([], some 0) := by
  decide +kernel

/-! ### Brightness -/

/-- FB of V40. -/
def fbV40 : Buffer :=
  #v[#v[0x80, 0, 0, 0, 0, 0x0E, 0x0A, 0x0A], #v[0x01, 0, 0, 0, 0, 0xE0, 0xA0, 0xE0], #v[0x0A, 0x0E, 0, 0, 0, 0, 0, 0x80],
    #v[0xA0, 0xE0, 0, 0, 0, 0, 0, 0x01]]

/-- V40. -/
theorem test_beginadj_picture :
    ((after 0x7000 booted).map fun t => (t.fb, t.session, t.response, t.trace)) =
      some (fbV40, .adjusting, some 1, []) := by decide +kernel

/-- V46: in automatic mode only the markers are drawn. -/
theorem test_beginadj_auto_markers :
    ((after 0x7000 { booted with level := .auto }).map (·.fb)) = some
      #v[#v[0x80, 0, 0, 0, 0, 0, 0, 0], #v[0x01, 0, 0, 0, 0, 0, 0, 0], #v[0, 0, 0, 0, 0, 0, 0, 0x80],
        #v[0, 0, 0, 0, 0, 0, 0, 0x01]] := by decide +kernel

/-- V42: an increment from level 8. -/
theorem test_stepadj_inc :
    (after 0x8001 { booted with session := .adjusting, fb := fbV40 }).map (fun t => (t.level, t.fb, t.response)) =
      some (.manual 9, fbV40.set 3 #v[0x20, 0xE0, 0, 0, 0, 0, 0, 0x01], some 1) ∧
    (after 0x8001 { booted with session := .adjusting, fb := fbV40 }).map (fun t => (t.trace, t.chain.map (·.intensity))) =
      some (frames [allChips 0x0A 0x09], Vector.replicate 4 9) := by decide +kernel

/-- V44: a decrement from 0 leads to automatic mode, clears the cells and uses no bus; V42: confirm answers 2. -/
theorem test_stepadj_dec_to_auto_and_confirm :
    ((after 0x8002 { booted with session := .adjusting, level := .manual 0, fb := fbV40 }).map fun t =>
      (t.level, t.fb, t.trace, t.response)) = some
      (.auto, #v[#v[0x80, 0, 0, 0, 0, 0, 0, 0], #v[0x01, 0, 0, 0, 0, 0, 0, 0], #v[0, 0, 0, 0, 0, 0, 0, 0x80],
        #v[0, 0, 0, 0, 0, 0, 0, 0x01]], [], some 1) ∧
      ((after 0x8003 { booted with session := .adjusting }).map fun t => (t.session, t.response)) =
        some (.idle, some 2) := by decide +kernel

/-- Automatic mode with the given recorded reading and time, and the given inputs now. -/
def autoState (lastR lastT r t : Nat) : State :=
  { booted with
    level := .auto, lastReading := lastR, lastUpdate := lastT
    pins := { idlePins with sensorIn := r, tickIn := t } }

/-- The inputs are the low bits of what the host drives, by the widths of the configuration (`00_scope.md` R4): with SENSOR_W 8
and TICK_W 16, reading 300 is 44, and 0x1_0064 - 0xFF9C is 200 modulo 2^16. -/
theorem test_pollauto_widths :
    (autoState 0 0 300 0).readingNow { Config.reference with sensorW := 8 } = 44 ∧
      (autoState 0 0 1029 0).readingNow Config.reference = 5 ∧
      elapsed { Config.reference with tickW := 16 }
        ((autoState 0 0xFF9C 0 0x10064).tickNow { Config.reference with tickW := 16 }) 0xFF9C = 200 := by decide +kernel

/-- V50 lines 2 and 5, V54 (the tick wraps): an update, one short of the threshold, an update. -/
theorem test_pollauto_updates :
    (pollauto Config.reference (autoState 0 0 500 1000)).trace = frames [allChips 0x0A 0x07] ∧
      (pollauto Config.reference (autoState 0 0 500 1000)).lastReading = 500 ∧
      (pollauto Config.reference (autoState 0 0 500 1000)).lastUpdate = 1000 ∧
      (pollauto Config.reference (autoState 0 0 500 1000)).chain.map (·.intensity) = Vector.replicate 4 7 ∧
      pollauto Config.reference (autoState 500 1000 510 2500) = { autoState 500 1000 510 2500 with response := some 0 } ∧
      (pollauto Config.reference (autoState 0 0xFFFFFF00 300 0x2E7)).trace = [] ∧
      (pollauto Config.reference (autoState 0 0xFFFFFF00 300 0x2E8)).trace = frames [allChips 0x0A 0x04] := by
  decide +kernel

/-- V55: a rising range, a falling one, and clamping at both ends. -/
theorem test_sensor_map :
    ([0, 68, 69, 136, 137, 205, 500, 600, 1022, 1023] : List Nat).map (sensorMap Config.reference) =
      [0, 0, 1, 1, 2, 3, 7, 8, 14, 15] ∧
    ([0, 68, 69, 511, 512, 1022, 1023] : List Nat).map
      (sensorMap { Config.reference with sensorRange := SensorRange.ofEnds 1023 0 }) = [15, 14, 13, 7, 7, 0, 0] ∧
    ([0, 99, 100, 153, 154, 500, 899, 900, 1023] : List Nat).map
      (sensorMap { Config.reference with sensorRange := SensorRange.ofEnds 100 900 }) = [0, 0, 0, 0, 1, 7, 14, 15, 15] := by
  decide +kernel

/-! ### System commands, boot, faults, reset -/

/-- V71. -/
theorem test_settest_on :
    ((after 0xA001 booted).map fun t => (t.trace, t.chain.map (·.test), t.response, t.fb)) = some
      (frames [allChips 0x0F 0x01], Vector.replicate 4 1, some 0, zeroBuffer) := by decide +kernel

/-- V72. -/
theorem test_dump_answers :
    nextOf (exec .dump (presenting 0xB000 booted)) = some { presenting 0xB000 booted with response := some 0 } := by
  decide +kernel

/-- A chip that holds anything. -/
def scrambledChip : Chip :=
  { sr := 0xBEEF, dig := Vector.replicate 8 0x77, decode := 0xFF, scanLimit := 1, shutdown := 0, test := 1, intensity := 3 }

/-- The machine right after reset, but with scrambled chips. -/
def scrambled : State := { State.reset with chain := Vector.replicate 4 scrambledChip }

/-- V70: the boot frames, and the chips after them, whatever they held. -/
theorem test_boot :
    ((nextOf (step scrambled)).map fun t => (t.trace, t.phase)) = some
      (frames [allChips 0x09 0, allChips 0x0A 8, allChips 0x0B 7, allChips 0x0F 0, allChips 1 0, allChips 2 0,
        allChips 3 0, allChips 4 0, allChips 5 0, allChips 6 0, allChips 7 0, allChips 8 0, allChips 0x0C 1], .run) ∧
    ((nextOf (step scrambled)).map fun t => t.chain.map fun ch => { ch with sr := 0 }) =
      some (Vector.replicate 4 bootedChip) := by decide +kernel

/-- R39: after boot the bus lines are at their reset levels, though the last bit sent is 1. -/
theorem test_boot_lines :
    (nextOf (step scrambled)).map (·.wires) = some { serData := false, serClk := false, serLoad := true } := by
  decide +kernel

/-- The label of the fault that a word raises after boot. -/
def faultOf (w : Word) : Option FaultReason := (after w booted).bind (·.faultReason)

/-- V12: the reasons, the digit value checked before the cell. -/
theorem test_fault_reasons :
    faultOf 0x0000 = some .reservedOpcode ∧ faultOf 0x8004 = some .nonZeroField ∧ faultOf 0x300A = some .digitValue ∧
      faultOf 0x3EFA = some .digitValue ∧ faultOf 0x3E01 = some .cellRange ∧ faultOf 0x30C0 = some .cellRange ∧
      faultOf 0x3DB9 = none := by decide +kernel

/-- V74: FAULT, response 3, and no further command; a decode fault does the same. -/
theorem test_fault_latches :
    (after 0x3E01 booted).map (fun t => (t.fault, t.response, t.cmdReady)) = some (true, some 3, false) ∧
    (after 0x4001 booted).map (fun t => (t.fault, t.response, t.cmdReady)) = some (true, some 3, false) := by
  decide +kernel

/-- A session in progress after a fault, with the host driving `rst`. -/
def resetting : State :=
  { booted with
    fault := true, session := .adjusting, level := .manual 7, fb := fbV40, sb := fbV31
    pins := { idlePins with rst := true } }

/-- V73 and V74: `rst` restores the block and leaves the chips. -/
theorem test_reset_restores :
    ((nextOf (step resetting)).map fun t => (t.fb, t.sb, t.session)) = some (zeroBuffer, zeroBuffer, .idle) ∧
    ((nextOf (step resetting)).map fun t => (t.level, t.fault, t.phase)) = some (.manual 8, false, .boot) ∧
    (nextOf (step resetting)).map (·.chain) = some booted.chain := by decide +kernel

/-! ### The chain -/

/-- A chain with the given shift registers. -/
def chainOf (a b c d : BitVec 16) : Chain :=
  #v[{ bootedChip with sr := a }, { bootedChip with sr := b }, { bootedChip with sr := c }, { bootedChip with sr := d }]

/-- V80. -/
theorem test_chain_one_bit :
    ((chainOf 0x8001 0x0000 0xFFFF 0x7FFF).onBit true).map (·.sr) = #v[0x0003, 0x0001, 0xFFFE, 0xFFFF] := by
  decide +kernel

/-- V81. -/
theorem test_chain_one_frame :
    ((chainOf 0x1111 0x2222 0x3333 0x4444).onEvents Config.actual
      (frames [[(0x05, 0x08), (0, 0), (0, 0), (0x06, 0x10)]])).map (fun ch => (ch.sr, ch.dig)) =
      #v[(0x0610, #v[0, 0, 0, 0, 0, 0x10, 0, 0]), (0x0000, Vector.replicate 8 0), (0x0000, Vector.replicate 8 0),
        (0x0508, #v[0, 0, 0, 0, 0x08, 0, 0, 0])] := by decide +kernel

/-! ### Witnesses: for each statement with hypotheses, a case that meets them, clause by clause -/

theorem witness_DecodeEncodeInverse : decode 0x1FF0 = .ok (.setpx 15 15 false) := by decide

/-- The reasons at the ends of each range of operation codes. -/
theorem witness_DecodeRejectsExactly :
    opField 0x0FFF = 0 ∧ (opField 0xC000).toNat = 12 ∧ (opField 0xFFFF).toNat = 15 ∧ (opField 0xB001).toNat = 11 ∧
      (0xB001 : Word) &&& 0x0FFF ≠ 0 ∧ (opField 0x800C).toNat = 8 ∧ (0x800C : Word) &&& 0x0FFC ≠ 0 := by decide

theorem witness_StepRunsDecodedCommand :
    (presenting 0x6000 booted).pins.rst = false ∧ (presenting 0x6000 booted).pins.cmdValid = true ∧
      Running (presenting 0x6000 booted) ∧ decode (presenting 0x6000 booted).pins.cmd = .ok .flush :=
  ⟨rfl, rfl, ⟨rfl, rfl⟩, by decide⟩

theorem witness_FetchedWordRunsNext : decodeTableWord 16 0x3668 = some (.setdig 6 6 8) := by decide +kernel

theorem witness_StepFaultsOnBadWord :
    (presenting 0x8004 booted).pins.rst = false ∧ (presenting 0x8004 booted).pins.cmdValid = true ∧
      Running (presenting 0x8004 booted) ∧ decode (presenting 0x8004 booted).pins.cmd = .error .nonZeroField :=
  ⟨rfl, rfl, ⟨rfl, rfl⟩, by decide⟩

/-- Ready with no command, and faulted with one. -/
theorem witness_AcceptsExactlyWhenReady :
    (booted.pins.rst = false ∧ booted.phase = .run ∧ booted.accepted = none) ∧
    (presenting 0x4000 { booted with fault := true }).pins.rst = false ∧
      (presenting 0x4000 { booted with fault := true }).accepted = none ∧
      (presenting 0x4000 booted).accepted = some 0x4000 := by decide

/-- A faulted block and a host that keeps presenting commands. -/
def faultedBusy : State :=
  { presenting 0x4000 { booted with fault := true } with
    hostPlan := [{ idlePins with cmdValid := true, cmd := 0x6000 }, { idlePins with cmdValid := true, cmd := 0x1701 }] }

theorem witness_FaultHaltsUntilReset :
    faultedBusy.phase = .run ∧ faultedBusy.fault = true ∧ faultedBusy.pins.rst = false ∧
      faultedBusy.hostPlan.length = 2 ∧ ∀ p ∈ faultedBusy.hostPlan, p.rst = false := by decide

/-- A reset alone, and one while a ready block is presented a command. -/
theorem witness_ResetInputRestoresBlock :
    resetting.pins.rst = true ∧
      ({ booted with pins := { idlePins with rst := true, cmdValid := true, cmd := 0x6000 } } : State).pins.rst = true ∧
      (nextOf (step { booted with pins := { idlePins with rst := true, cmdValid := true, cmd := 0x6000 } })).map
        (·.phase) = some .boot := by decide +kernel

theorem witness_BootConfiguresEveryChip : scrambled.phase = .boot ∧ scrambled.pins.rst = false := ⟨rfl, rfl⟩

/-- The corners of the display. -/
theorem witness_TestpxAnswersPixel :
    ((0 : ChipIdx).val = (0 : Coord).val / 8 + 2 * ((0 : Coord).val / 8) ∧ (0 : DigitIdx).val = (0 : Coord).val % 8) ∧
    (3 : ChipIdx).val = (15 : Coord).val / 8 + 2 * ((15 : Coord).val / 8) ∧ (7 : DigitIdx).val = (15 : Coord).val % 8 := by
  decide

theorem witness_IsemptyAnswersExactly :
    (∀ (c : ChipIdx) (d : DigitIdx), Buffer.read booted.fb c d = 0) ∧
      Buffer.read (zeroBuffer.set 3 #v[0, 0, 0, 0, 0, 0, 0, 0x01]) 3 7 ≠ 0 := by decide +kernel

/-- The addresses where the clauses meet. -/
theorem witness_FramebufferByteStore : (32 ≤ 32) ∧ (31 < 32) ∧ memRead zeroBuffer 31 = some 0 ∧
    memRead zeroBuffer 32 = none := by decide +kernel

/-- The largest corner and the largest digit. -/
theorem witness_SetdigDrawsDigit :
    (CellPos.mk 13 11).x.val = (13 : Coord).val ∧ (CellPos.mk 13 11).y.val = (11 : Coord).val ∧
      (9 : Fin 10).val = (9 : Fin 16).val := by decide

/-- Digit 10 in a cell that fits; digit 9 one past each edge. -/
theorem witness_SetdigOutOfContractFaults :
    9 < (10 : Fin 16).val ∧ ((9 : Fin 16).val ≤ 9 ∧ 13 < (14 : Coord).val) ∧ (9 : Fin 16).val ≤ 9 ∧ 11 < (12 : Coord).val := by
  decide

theorem booted_holds_sb : ChipsHoldSb booted := by unfold ChipsHoldSb; decide +kernel

theorem witness_FlushReconciles : ChipsHoldSb { booted with fb := fbV31 } := booted_holds_sb

/-- The frame of S9. -/
def frameS9 : FrameWords := fun k => if k = 0 then (0x01, 0x81) else (0x00, 0x00)

/-- One frame of words the bus may carry takes chips that hold a zero SB to an FB with one row set. -/
theorem witness_FlushFrameCountIsMinimum :
    (∀ w ∈ [frameS9], ∀ k : ChipIdx, BusWordAllowed Config.actual (w k)) ∧
      (∀ (k : ChipIdx) (d : DigitIdx), (booted.chain.get k).dig.get d = Buffer.read booted.sb k d) ∧
      ∀ (k : ChipIdx) (d : DigitIdx), ((booted.chain.onEvents Config.actual (framesEvents [frameS9])).get k).dig.get d =
        Buffer.read (zeroBuffer.set 0 #v[0x81, 0, 0, 0, 0, 0, 0, 0]) k d := by
  refine ⟨fun w hw k => ?_, booted_holds_sb, by decide +kernel⟩
  rw [List.mem_singleton.mp hw]
  by_cases h : k = 0
  · rw [h]
    exact .inr (.inl ⟨by decide, by decide⟩)
  · exact .inl (if_neg h)

/-- Inside a FLUSH of V31: position 0 is chip 3, whose row 4 is next after row 0; chip 1 has none left after row 2. -/
def midFlush : State :=
  { booted with
    fb := fbV31, sb := Buffer.write (Buffer.write zeroBuffer 3 0 0x80) 1 2 0x40
    seq := { resetSeq with next := #v[0, 3, 0, 1] } }

theorem witness_FlushWordUpdatesSbAtOnce :
    ((3 : ChipIdx).val = 3 - (0 : Fin 4).val ∧ (midFlush.seq.next.get 3).val ≤ (4 : DigitIdx).val ∧
      Buffer.read midFlush.fb 3 4 ≠ Buffer.read midFlush.sb 3 4 ∧
      ∀ j : DigitIdx, (midFlush.seq.next.get 3).val ≤ j.val → j < 4 →
        Buffer.read midFlush.fb 3 j = Buffer.read midFlush.sb 3 j) ∧
    (1 : ChipIdx).val = 3 - (2 : Fin 4).val ∧
      ∀ k : DigitIdx, (midFlush.seq.next.get 1).val ≤ k.val →
        Buffer.read midFlush.fb 1 k = Buffer.read midFlush.sb 1 k := by decide +kernel

theorem witness_FlushSearchIsSound : SearchSound midFlush ∧ (midFlush.seq.next.get 1).val = 3 := by
  unfold SearchSound
  decide +kernel

theorem witness_LevelIncrement : (14 : BitVec 4).toNat ≤ 14 ∧ (0 : BitVec 4).toNat ≤ 14 := by decide

theorem witness_LevelDecrement : 1 ≤ (1 : BitVec 4).toNat ∧ 1 ≤ (15 : BitVec 4).toNat := by decide

theorem witness_BeginadjOpensSession :
    booted.session = .idle ∧ booted.level ≠ .auto ∧ (autoState 0 0 0 0).session = .idle ∧ (autoState 0 0 0 0).level = .auto ∧
      resetting.session = .adjusting := by decide

/-- Adjusting, the increment that leaves manual mode and the one that stays, and Idle. -/
theorem witness_StepadjTransitions :
    booted.session = .idle ∧ resetting.session = .adjusting ∧ Level.up resetting.level = .manual 8 ∧
      Level.up (.manual 15) = .auto ∧ Level.down (.manual 0) = .auto := by decide

theorem witness_StepadjWithoutPush : ({ Config.reference with manualPush := false } : Config).manualPush = false := rfl

theorem reference_wf : Config.reference.wf = true := by decide

/-- Due exactly at the interval and one past the threshold (V53); not due one short of either, nor in manual mode. -/
theorem witness_PollautoUpdates :
    Config.reference.wf = true ∧ PollDue Config.reference (autoState 0 0 11 1000) ∧
      ¬ PollDue Config.reference (autoState 0 0 10 1000) ∧ ¬ PollDue Config.reference (autoState 0 0 11 999) ∧
      ¬ PollDue Config.reference booted := by
  unfold PollDue
  decide +kernel

/-- A rising and a falling range with both ends among the readings. -/
theorem witness_SensorMapIsLinear :
    ((0 : Nat) : Int) = Config.reference.sensorRange.lo ∧ ((1023 : Nat) : Int) = Config.reference.sensorRange.hi ∧
      Config.reference.sensorRange.lo < Config.reference.sensorRange.hi ∧
      (SensorRange.ofEnds 1023 0).hi < (SensorRange.ofEnds 1023 0).lo ∧ (SensorRange.ofEnds 1023 0).hi = 0 ∧
      (511 : Nat) ≤ 512 := by decide +kernel

/-- After the update of V50 line 2: polls at the threshold (line 5), before the interval (line 4), and past both (line 6). -/
theorem witness_AutomaticHysteresis :
    PollDue Config.reference (autoState 0 0 500 1000) ∧
      (∀ r t, (autoState 500 1000 r t).level = .auto ∧
        (autoState 500 1000 r t).lastReading = (pollauto Config.reference (autoState 0 0 500 1000)).lastReading ∧
        (autoState 500 1000 r t).lastUpdate = (pollauto Config.reference (autoState 0 0 500 1000)).lastUpdate) ∧
      |((510 : Nat) : Int) - (500 : Nat)| ≤ Config.reference.autoThreshold ∧
      (((1999 : Nat) : Int) - (1000 : Nat)) % (2 ^ Config.reference.tickW : Nat) < Config.reference.autoInterval ∧
      (Config.reference.autoThreshold : Int) < |((511 : Nat) : Int) - (500 : Nat)| ∧
      (Config.reference.autoInterval : Int) ≤ (((2000 : Nat) : Int) - (1000 : Nat)) % (2 ^ Config.reference.tickW : Nat) := by
  have h1 : (pollauto Config.reference (autoState 0 0 500 1000)).lastReading = 500 := by decide +kernel
  have h2 : (pollauto Config.reference (autoState 0 0 500 1000)).lastUpdate = 1000 := by decide +kernel
  refine ⟨by unfold PollDue; decide +kernel, fun r t => ⟨rfl, h1.symm ▸ rfl, h2.symm ▸ rfl⟩, ?_⟩
  decide +kernel

theorem witness_ToCellBijective :
    ((7, 7) : Coord × Coord) ≠ (8, 7) ∧ (8 : Coord).val % 8 = 0 ∧ (15 : Coord).val = (8 : Coord).val + (7 : Fin 8).val := by
  decide

theorem witness_ToCellRefusesOutOfRange : (15 : Coord).val = 15 ∧ toCellNat 16 0 = none ∧ toCellNat 0 16 = none := by decide

/-- One frame word of each kind. -/
theorem witness_FrameDelivers :
    Config.actual.wf = true ∧
      ((0x01, 0x80) : Byte × Byte) = (BitVec.ofNat 8 ((0 : DigitIdx).val + 1), 0x80) ∧
      ((0x08, 0x80) : Byte × Byte) = (BitVec.ofNat 8 ((7 : DigitIdx).val + 1), 0x80) ∧
      ((0x09, 0) : Byte × Byte) = (Config.actual.regDecode, 0) ∧ ((0x0A, 15) : Byte × Byte) = (Config.actual.regIntensity, 15) ∧
      ((0x0B, 7) : Byte × Byte) = (Config.actual.regScanlimit, 7) ∧ ((0x0C, 1) : Byte × Byte) = (Config.actual.regShutdown, 1) ∧
      ((0x0F, 1) : Byte × Byte) = (Config.actual.regTest, 1) ∧ ((0, 0) : Byte × Byte) = (Config.actual.regNoop, 0) := ⟨actual_wf, by decide⟩

/-- A command that uses the bus and one that does not, each with its next state. -/
theorem witness_BusCarriesWholeFrames :
    (∃ t, exec (.settest true) booted = .next t) ∧ ∃ t, exec .flush { booted with fb := fbV31 } = .next t :=
  ⟨exec_answers _ _, exec_answers _ _⟩

/-- The state after boot meets the invariant. -/
theorem booted_inv : Inv Config.actual booted := by
  refine ⟨⟨rfl, rfl⟩, ⟨by decide, by decide⟩, fun h => absurd h (by decide), fun _ => ⟨booted_holds_sb, ?_, ?_⟩⟩
  · unfold ChipsConfigured
    decide +kernel
  · intro n hn c
    have h8 : n = 8 := (Level.manual.inj hn).symm
    subst h8
    revert c
    decide +kernel

/-- A picture drawn after boot, chips not yet flushed. -/
theorem witness_LedsShowFramebufferAfterFlush :
    Inv Config.actual { booted with fb := fbV31 } ∧ Running { booted with fb := fbV31 } ∧
      ∀ c : ChipIdx, (({ booted with fb := fbV31 } : State).chain.get c).test = Config.actual.testOffVal := by
  refine ⟨⟨booted_inv.1, booted_inv.2.1, fun h => absurd h (by decide), fun _ => booted_inv.2.2.2 rfl⟩, ⟨rfl, rfl⟩, ?_⟩
  decide +kernel

/-- The reference configuration meets the premises on a configuration. -/
theorem witness_StepKeepsInvariant_configuration :
    Config.reference.wf = true ∧ Config.reference.manualPush = true ∧ Inv Config.reference (State.resetOn Config.reference) ∧
      ∃ t, stepOn Config.reference (State.resetOn Config.reference) = .next t :=
  ⟨reference_wf, rfl,
    ⟨⟨rfl, rfl⟩, ⟨by decide, by decide⟩, fun _ => ⟨rfl, rfl, rfl, rfl, rfl, rfl, rfl, rfl⟩, fun h => absurd h (by decide)⟩,
    _, rfl⟩

/-- A step from a state with the invariant that answers a next state: a FLUSH with differences. -/
theorem witness_StepKeepsInvariant :
    Inv Config.actual (presenting 0x6000 { booted with fb := fbV31 }) ∧
      ∃ t, step (presenting 0x6000 { booted with fb := fbV31 }) = .next t :=
  ⟨⟨booted_inv.1, booted_inv.2.1, fun h => absurd h (by decide), fun _ => booted_inv.2.2.2 rfl⟩, _, rfl⟩

theorem witness_RegistersHaveTheirWriters :
    ∃ t, exec (.setdig 14 0 1) booted = .next t ∧ t.fault ≠ booted.fault :=
  ⟨raiseFault .cellRange booted, rfl, by decide⟩

theorem witness_TraceIsObservationOnly : ∃ t, exec (.settest true) booted = .next t := exec_answers _ _

theorem witness_ShadowBufferIsHidden : Instr.stepadj .inc ≠ .flush := by decide

theorem witness_SessionGatesNothingElse : Instr.flush ≠ .beginadj ∧ ∀ ev, Instr.flush ≠ .stepadj ev := by
  exact ⟨by decide, fun ev h => Instr.noConfusion h⟩

theorem witness_IdempotentCommands : ∃ t, exec (.setdig 6 6 8) booted = .next t := exec_answers _ _

end Sys2Proof.Tests
end

section
/-! PROOFS. Scope (`00_scope.md`): the machine is the model at its own configuration (R4), and the bus trace and the fault
label are observations that no command reads (R7). -/

namespace Sys2Proof.Machine

/-! ### The machine at its configuration -/

/-- Every arm of `exec` is the meaning of its command at the machine's configuration. -/
theorem exec_eq_execOn (i : Instr) (s : State) : exec i s = .next (execOn Config.actual i s) := by
  cases i <;> rfl

/-- A step of the machine is a turn with those meanings. -/
theorem step_eq_stepOn (s : State) : step s = stepOn Config.actual s := by
  have hexec : exec = fun i s => .next (execOn Config.actual i s) := by
    funext i s
    exact exec_eq_execOn i s
  rw [step, stepOn, hexec]

/-- Settles O54. -/
theorem machineIsOnItsConfiguration : Obligations.MachineIsOnItsConfiguration :=
  ⟨exec_eq_execOn, step_eq_stepOn, rfl⟩

/-! ### The observations, and operations that only add to the trace -/

/-- The state with other observations: another trace and another fault label. -/
def State.observing (s : State) (tr : List BusEvent) (r : Option FaultReason) : State :=
  { s with trace := tr, faultReason := r }

@[simp] theorem State.observing_trace (s : State) (tr : List BusEvent) (r : Option FaultReason) :
    (s.observing tr r).trace = tr := rfl

@[simp] theorem State.observing_session (s : State) (tr : List BusEvent) (r : Option FaultReason) :
    (s.observing tr r).session = s.session := rfl

/-- At `s` the operation adds to the trace events that do not depend on the observations, and has the same effect on the rest
of the state whatever they are. -/
def OnlyAddsToTrace (f : State → State) (s : State) : Prop :=
  ∃ es : List BusEvent, (f s).trace = s.trace ++ es ∧
    ∀ (tr : List BusEvent) (r : Option FaultReason), ∃ r' : Option FaultReason,
      f (s.observing tr r) = (f s).observing (tr ++ es) r'

namespace OnlyAddsToTrace

variable {f g : State → State} {s : State}

/-- An operation that leaves the observations as they are adds no events. -/
theorem of_commutes (h : ∀ tr r, f (s.observing tr r) = (f s).observing tr r) : OnlyAddsToTrace f s := by
  refine ⟨[], ?_, fun tr r => ⟨r, ?_⟩⟩
  · have hself : f s = (f s).observing s.trace s.faultReason := h s.trace s.faultReason
    rw [List.append_nil, hself, State.observing_trace]
  · rw [List.append_nil, h]

/-- One operation after another adds the events of both. -/
theorem comp (hf : OnlyAddsToTrace f s) (hg : OnlyAddsToTrace g (f s)) : OnlyAddsToTrace (fun s => g (f s)) s := by
  obtain ⟨es, hes, hfo⟩ := hf
  obtain ⟨fs, hfs, hgo⟩ := hg
  refine ⟨es ++ fs, by rw [hfs, hes, List.append_assoc], fun tr r => ?_⟩
  obtain ⟨r₁, h₁⟩ := hfo tr r
  obtain ⟨r₂, h₂⟩ := hgo (tr ++ es) r₁
  refine ⟨r₂, ?_⟩
  calc g (f (s.observing tr r))
      = g ((f s).observing (tr ++ es) r₁) := by rw [h₁]
    _ = (g (f s)).observing (tr ++ (es ++ fs)) r₂ := by rw [h₂, List.append_assoc]

/-- The property is about the states that differ from `s` in the observations only, so a branch that all of them take may
stand for the whole operation. -/
theorem congr (h : ∀ tr r, f (s.observing tr r) = g (s.observing tr r)) (hg : OnlyAddsToTrace g s) :
    OnlyAddsToTrace f s := by
  obtain ⟨es, hes, hgo⟩ := hg
  have hs : f s = g s := h s.trace s.faultReason
  exact ⟨es, by rw [hs, hes], fun tr r => by rw [h, hs]; exact hgo tr r⟩

theorem foldl {α : Type} {f : State → α → State} (h : ∀ a s, OnlyAddsToTrace (fun s => f s a) s) (l : List α) (s : State) :
    OnlyAddsToTrace (fun s => l.foldl f s) s := by
  induction l generalizing s with
  | nil => exact of_commutes fun _ _ => rfl
  | cons a l ih => exact (h a s).comp (ih (f s a))

/-! ### The operations of the block -/

theorem emit (cfg : Config) (es : List BusEvent) (s : State) : OnlyAddsToTrace (fun s => s.emit cfg es) s :=
  ⟨es, rfl, fun _ r => ⟨r, rfl⟩⟩

theorem broadcast (cfg : Config) (reg val : Byte) (s : State) : OnlyAddsToTrace (fun s => s.broadcast cfg reg val) s :=
  emit cfg (broadcastEvents reg val) s

theorem respond (code : BitVec 2) (s : State) : OnlyAddsToTrace (fun s => s.respond code) s :=
  of_commutes fun _ _ => rfl

/-- Taking a fault writes the label and reads no observation. -/
theorem raiseFault (reason : FaultReason) (s : State) : OnlyAddsToTrace (raiseFault reason) s :=
  ⟨[], (List.append_nil _).symm, fun tr _ => ⟨some reason, by rw [List.append_nil]; rfl⟩⟩

/-! ### The commands that use the bus or take a fault -/

theorem setdig (cfg : Config) (x y : Coord) (d : Fin 16) (s : State) : OnlyAddsToTrace (setdig cfg x y d) s := by
  unfold Machine.setdig
  cases setdigOperands x y d with
  | error reason => exact raiseFault reason s
  | ok operands => exact of_commutes fun _ _ => rfl

theorem beginadj (cfg : Config) (s : State) : OnlyAddsToTrace (beginadj cfg) s := by
  apply of_commutes
  intro tr r
  simp only [Machine.beginadj, State.observing_session]
  cases s.session with
  | idle => rfl
  | adjusting => rfl

theorem pushLevel (cfg : Config) (l : Level) (s : State) : OnlyAddsToTrace (pushLevel cfg l) s := by
  unfold Machine.pushLevel
  cases l with
  | auto => exact of_commutes fun _ _ => rfl
  | manual n =>
    cases cfg.manualPush with
    | false => exact of_commutes fun _ _ => rfl
    | true => exact broadcast cfg cfg.regIntensity (zext8 n) s

theorem adjustTo (cfg : Config) (l : Level) (s : State) : OnlyAddsToTrace (adjustTo cfg l) s := by
  have hlevel : OnlyAddsToTrace (fun s => s.setLevel l) s := of_commutes fun _ _ => rfl
  have hpicture : ∀ s, OnlyAddsToTrace (fun s => (s.setFb (renderLevel cfg l s.fb)).respond 1) s :=
    fun _ => of_commutes fun _ _ => rfl
  exact (hlevel.comp (pushLevel cfg l _)).comp (hpicture _)

theorem stepadj (cfg : Config) (ev : Event) (s : State) : OnlyAddsToTrace (stepadj cfg ev) s := by
  cases hs : s.session with
  | idle =>
    exact congr (fun tr r => by simp only [Machine.stepadj, State.observing_session, hs]) (respond 0 s)
  | adjusting =>
    cases ev with
    | none =>
      exact congr (fun tr r => by simp only [Machine.stepadj, State.observing_session, hs]) (respond 0 s)
    | inc =>
      refine congr (fun tr r => ?_) (adjustTo cfg s.level.up s)
      simp only [Machine.stepadj, State.observing_session, hs]
      rfl
    | dec =>
      refine congr (fun tr r => ?_) (adjustTo cfg s.level.down s)
      simp only [Machine.stepadj, State.observing_session, hs]
      rfl
    | confirm =>
      have hend : OnlyAddsToTrace (fun s => (s.setSession (sessionAfter .confirm)).respond 2) s :=
        of_commutes fun _ _ => rfl
      exact congr (fun tr r => by simp only [Machine.stepadj, State.observing_session, hs]) hend

theorem pollauto (cfg : Config) (s : State) : OnlyAddsToTrace (pollauto cfg) s := by
  have hcond : ∀ tr r, autoUpdates cfg (s.observing tr r) = autoUpdates cfg s := fun _ _ => rfl
  cases hu : autoUpdates cfg s with
  | false => exact congr (fun tr r => by simp [Machine.pollauto, hcond, hu]) (respond 0 s)
  | true =>
    have hrecord : ∀ t, OnlyAddsToTrace (fun t => (t.recordAuto (s.readingNow cfg) (s.tickNow cfg)).respond 0) t :=
      fun _ => of_commutes fun _ _ => rfl
    refine congr (fun tr r => ?_)
      ((broadcast cfg cfg.regIntensity (zext8 (sensorMap cfg (s.readingNow cfg))) s).comp (hrecord _))
    rw [Machine.pollauto, hcond, hu, if_pos rfl]
    rfl

theorem settest (cfg : Config) (b : Bool) (s : State) : OnlyAddsToTrace (settest cfg b) s :=
  (broadcast cfg cfg.regTest (if b then cfg.testOnVal else cfg.testOffVal) s).comp (respond 0 _)

/-! ### FLUSH -/

/-- The word sent is chosen by FB, SB and the search start, never by the observations. -/
theorem flushWord (cfg : Config) (p : Fin 4) (s : State) : OnlyAddsToTrace (fun s => flushWord cfg s p) s := by
  have hpos : OnlyAddsToTrace (fun s => s.setSeq { s.seq with pos := p }) s := of_commutes fun _ _ => rfl
  have hrow : ∀ tr r, nextRow (s.observing tr r).fb (s.observing tr r).sb (chainOrder.get p)
      ((s.observing tr r).seq.next.get (chainOrder.get p)) =
        nextRow s.fb s.sb (chainOrder.get p) (s.seq.next.get (chainOrder.get p)) := fun _ _ => rfl
  cases hn : nextRow s.fb s.sb (chainOrder.get p) (s.seq.next.get (chainOrder.get p)) with
  | none =>
    have hafter : ∀ t, OnlyAddsToTrace (fun t => setNext t (chainOrder.get p) 8) t :=
      fun _ => of_commutes fun _ _ => rfl
    refine congr (fun tr r => ?_) ((hpos.comp (emit cfg (wordEvents (cfg.regNoop, cfg.noopVal)) _)).comp (hafter _))
    simp only [Machine.flushWord, State.setSeq_fb, State.setSeq_sb, State.setSeq_seq, hrow, hn]
  | some k =>
    have hafter : ∀ t, OnlyAddsToTrace (fun t => setNext (t.setSb (Buffer.write t.sb (chainOrder.get p) k
        (Buffer.read s.fb (chainOrder.get p) k))) (chainOrder.get p) (afterRow k)) t :=
      fun _ => of_commutes fun _ _ => rfl
    refine congr (fun tr r => ?_)
      ((hpos.comp (emit cfg (wordEvents (digitReg k, Buffer.read s.fb (chainOrder.get p) k)) _)).comp (hafter _))
    simp only [Machine.flushWord, State.setSeq_fb, State.setSeq_sb, State.setSeq_seq, hrow, hn]
    rfl

theorem flushFrame (cfg : Config) (k : Fin 8) (s : State) : OnlyAddsToTrace (fun s => flushFrame cfg s k) s := by
  have hframe : OnlyAddsToTrace (fun s => s.setSeq { s.seq with frame := k }) s := of_commutes fun _ _ => rfl
  have hsent := (hframe.comp (foldl (flushWord cfg) [0, 1, 2, 3] _)).comp (emit cfg strobeEvents _)
  exact hsent

/-- How many frames are sent is MAXCOUNT, which is no observation. -/
theorem flushFrames (cfg : Config) (s : State) : OnlyAddsToTrace (flushFrames cfg) s :=
  congr (fun _ _ => rfl) (foldl (flushFrame cfg) (digitIdxs.take s.seq.maxCount.val) s)

theorem flush (cfg : Config) (s : State) : OnlyAddsToTrace (flush cfg) s := by
  have hstart : OnlyAddsToTrace flushStart s := of_commutes fun _ _ => rfl
  have hend : ∀ s, OnlyAddsToTrace (fun s => (flushEnd s).respond 0) s := fun _ => of_commutes fun _ _ => rfl
  have hrun := (hstart.comp (flushFrames cfg _)).comp (hend _)
  exact hrun

/-! ### Every command -/

/-- Every command, on every configuration, only adds to the trace. -/
theorem execOn (cfg : Config) (i : Instr) (s : State) : OnlyAddsToTrace (execOn cfg i) s := by
  cases i with
  | setpx x y b => exact of_commutes fun _ _ => rfl
  | testpx x y => exact of_commutes fun _ _ => rfl
  | setdig x y d => exact setdig cfg x y d s
  | clear => exact of_commutes fun _ _ => rfl
  | isempty => exact of_commutes fun _ _ => rfl
  | flush => exact flush cfg s
  | beginadj => exact beginadj cfg s
  | stepadj ev => exact stepadj cfg ev s
  | pollauto => exact pollauto cfg s
  | settest b => exact settest cfg b s
  | dump => exact respond 0 s

end OnlyAddsToTrace

/-- Settles O49: every command is composed of operations that only add to the trace. -/
theorem traceIsObservationOnly : Obligations.TraceIsObservationOnly := by
  intro i s t h
  rw [exec_eq_execOn] at h
  cases h
  obtain ⟨es, htrace, hobs⟩ := OnlyAddsToTrace.execOn Config.actual i s
  refine ⟨es, htrace, fun tr r => ?_⟩
  obtain ⟨r', hr'⟩ := hobs tr r
  exact ⟨r', (exec_eq_execOn i (s.observing tr r)).trans (congrArg Host.Outcome.next hr')⟩

end Sys2Proof.Machine
end

section
/-! PROOFS. What runs of frames leave in a chip (`60_exceptions.md` R192 to R196): the words a chip receives, the frames of a
FLUSH, the frames of boot; and FLUSH as one equation. -/

namespace Sys2Proof.Machine

/-- A chip after a frame that carries the word `w` for it: shifted in, then latched (`20_memory.md` R61). -/
def Chip.receive (cfg : Config) (ch : Chip) (w : Byte × Byte) : Chip := (ch.withSr (w.1 ++ w.2)).latch cfg

/-- A run of frames is, for every chip, the run of the words those frames carry for it. -/
theorem onEvents_framesEvents_get (cfg : Config) (ws : List FrameWords) (c : Chain) (k : ChipIdx) :
    (c.onEvents cfg (framesEvents ws)).get k = (ws.map (· k)).foldl (Chip.receive cfg) (c.get k) := by
  induction ws generalizing c with
  | nil => rfl
  | cons w ws ih =>
    rw [framesEvents_cons, onEvents_append, ih, onEvents_frame_get]
    rfl

/-- A broadcast is one word, the same for every chip (`20_memory.md` R62). -/
theorem onEvents_broadcast_get (cfg : Config) (c : Chain) (r v : Byte) (k : ChipIdx) :
    (c.onEvents cfg (broadcastEvents r v)).get k = (c.get k).receive cfg (r, v) := by
  rw [broadcastEvents, onEvents_frame_get, Chip.receive]

/-- Whole frames keep the lines at rest. -/
theorem emit_frames_linesAtRest (cfg : Config) {s : State} (h : LinesAtRest s) (ws : List FrameWords) :
    LinesAtRest (s.emit cfg (framesEvents ws)) :=
  wires_framesEvents s.wires s.freeCtr ws h.1 h.2

/-- A digit word writes that digit register (`60_exceptions.md` R192). -/
theorem receive_digit (cfg : Config) (ch : Chip) (k : DigitIdx) (v : Byte) :
    ch.receive cfg (digitReg k, v) = { ch.withSr (digitReg k ++ v) with dig := ch.dig.set k.val v } := by
  have hk : (digitReg k).toNat = k.val + 1 := by
    simp only [digitReg, BitVec.toNat_ofNat]
    omega
  have hdigit : 1 ≤ (digitReg k).toNat ∧ (digitReg k).toNat ≤ 8 := by omega
  rw [Chip.receive, latch_digit cfg ch _ v hdigit]
  simp only [hk, Nat.add_sub_cancel]

/-- A run of digit words writes the digit registers it names and nothing else but the shift register. -/
theorem receive_rows (cfg : Config) (f : DigitIdx → Byte) (rows : List DigitIdx) (ch : Chip) :
    ∃ sr, (rows.map fun k => (digitReg k, f k)).foldl (Chip.receive cfg) ch =
      { ch with sr := sr, dig := Vector.ofFn fun j => if j ∈ rows then f j else ch.dig.get j } := by
  induction rows generalizing ch with
  | nil =>
    refine ⟨ch.sr, Chip.ext rfl ?_ rfl rfl rfl rfl rfl⟩
    apply Vector.ext
    intro j hj
    simp [Vector.get_eq_getElem]
  | cons k rows ih =>
    obtain ⟨sr, hrows⟩ := ih (ch.receive cfg (digitReg k, f k))
    refine ⟨sr, ?_⟩
    rw [List.map_cons, List.foldl_cons, hrows, receive_digit]
    refine Chip.ext rfl ?_ rfl rfl rfl rfl rfl
    apply Vector.ext
    intro j hj
    by_cases hjk : k.val = j
    · subst hjk
      simp [Vector.get_eq_getElem]
    · have hne : (⟨j, hj⟩ : DigitIdx) ≠ k := fun h => hjk (congrArg Fin.val h).symm
      simp [Vector.get_eq_getElem, Vector.getElem_set, hjk, hne]

/-- A run of no-operation words writes nothing but the shift register (`60_exceptions.md` R194). -/
theorem receive_noops {cfg : Config} (hw : cfg.wf = true) (v : Byte) (m : Nat) (ch : Chip) :
    ∃ sr, (List.replicate m (cfg.regNoop, v)).foldl (Chip.receive cfg) ch = ch.withSr sr := by
  induction m generalizing ch with
  | zero => exact ⟨ch.sr, rfl⟩
  | succ m ih =>
    obtain ⟨sr, hrest⟩ := ih (ch.receive cfg (cfg.regNoop, v))
    exact ⟨sr, by rw [List.replicate_succ, List.foldl_cons, hrest, Chip.receive, latch_noop hw, Chip.withSr_withSr]⟩

/-! ### FLUSH -/

/-- The words of the frames of a FLUSH for one chip: its differing rows, then no-operation words. -/
theorem plannedWords_eq (cfg : Config) (fb sb : Buffer) (c : ChipIdx) {n : Nat} (hn : (diffRows fb sb c).length ≤ n) :
    ((List.range n).map (plannedFrame cfg fb sb)).map (· c) =
      ((diffRows fb sb c).map fun k => (digitReg k, Buffer.read fb c k)) ++
        List.replicate (n - (diffRows fb sb c).length) (cfg.regNoop, cfg.noopVal) := by
  apply List.ext_getElem
  · simp [hn]
  · intro j hj hj'
    by_cases hlt : j < (diffRows fb sb c).length
    · simp [plannedFrame, digitReg, hlt]
    · simp [plannedFrame, List.getElem_append, hlt]

/-- The frames of a FLUSH bring a chip that holds SB to FB, and change no other register but the shift register. -/
theorem receive_flushPlan {cfg : Config} (hw : cfg.wf = true) (fb sb : Buffer) (c : ChipIdx) (ch : Chip)
    (hsb : ∀ k, ch.dig.get k = Buffer.read sb c k) :
    ∃ sr, ((flushPlan cfg fb sb).map (· c)).foldl (Chip.receive cfg) ch = { ch with sr := sr, dig := fb.get c } := by
  obtain ⟨sr₁, hrows⟩ := receive_rows cfg (Buffer.read fb c) (diffRows fb sb c) ch
  obtain ⟨sr, hnoops⟩ := receive_noops hw cfg.noopVal (framesNeeded fb sb - (diffRows fb sb c).length)
    (((diffRows fb sb c).map fun k => (digitReg k, Buffer.read fb c k)).foldl (Chip.receive cfg) ch)
  refine ⟨sr, ?_⟩
  rw [flushPlan, plannedWords_eq cfg fb sb c (diffRows_length_le fb sb c), List.foldl_append, hnoops, hrows]
  refine Chip.ext rfl ?_ rfl rfl rfl rfl rfl
  apply Vector.ext
  intro j hj
  simp only [Chip.withSr_dig, Vector.getElem_ofFn]
  split
  · rfl
  · next hsame =>
    rw [mem_diffRows, not_not] at hsame
    rw [hsb, ← hsame]
    rfl

/-- FLUSH in one equation: it emits the planned frames, leaves FB in SB and the sequencer dead, and answers 0
(`42_flush.md` R121, R126, R128; `10_state.md` R36). -/
theorem flush_eq (cfg : Config) (s : State) :
    flush cfg s =
      (flushEnd ((s.emit cfg (framesEvents (flushPlan cfg s.fb s.sb))).setSb s.fb)).respond 0 := by
  have hsound : SearchSound (flushStart s) := by
    intro c k hk
    simp [flushStart, Vector.get_eq_getElem] at hk
  have hmax : (flushStart s).seq.maxCount.val = framesNeeded s.fb s.sb := maxDiffCount_val s.fb s.sb
  have hlen : (digitIdxs.take (flushStart s).seq.maxCount.val).length = framesNeeded s.fb s.sb := by
    rw [hmax, List.length_take]
    exact Nat.min_eq_left (framesNeeded_le s.fb s.sb)
  obtain ⟨b, q, hframes, hrest⟩ :=
    flushFrames_spec cfg (digitIdxs.take (flushStart s).seq.maxCount.val) (flushStart s) hsound
  have hb : b = s.fb := by
    apply eq_of_diffRows_nil
    intro c
    rw [hlen] at hrest
    exact (hrest c).trans (List.drop_eq_nil_of_le (diffRows_length_le s.fb s.sb c))
  rw [hlen] at hframes
  have hfb : (flushStart s).fb = s.fb := rfl
  have hsb : (flushStart s).sb = s.sb := rfl
  rw [flush, flushFrames, hframes, hb, hfb, hsb, flushPlan]
  generalize framesEvents ((List.range (framesNeeded s.fb s.sb)).map (plannedFrame cfg s.fb s.sb)) = es
  rfl

/-! ### Boot -/

/-- The control writes of boot set every register of a chip but the shift register, whatever it held before
(`10_state.md` R39, `70_reset_and_hazards.md` R212). -/
theorem receive_bootWrites {cfg : Config} (hw : cfg.wf = true) (ch : Chip) :
    ∃ sr, (bootWrites cfg).foldl (Chip.receive cfg) ch =
      { sr := sr, dig := Vector.replicate 8 0, decode := cfg.decodeOffVal, scanLimit := scanLimitVal,
        shutdown := cfg.shutdownRunVal, test := cfg.testOffVal, intensity := cfg.defaultIntensity } := by
  have hsettings : ∃ ch₁ : Chip,
      [(cfg.regDecode, cfg.decodeOffVal), (cfg.regIntensity, zext8 cfg.defaultIntensity),
        (cfg.regScanlimit, scanLimitVal), (cfg.regTest, cfg.testOffVal)].foldl (Chip.receive cfg) ch = ch₁ ∧
      ch₁.decode = cfg.decodeOffVal ∧ ch₁.scanLimit = scanLimitVal ∧ ch₁.test = cfg.testOffVal ∧
      ch₁.intensity = cfg.defaultIntensity := by
    refine ⟨_, rfl, ?_⟩
    simp [Chip.receive, latch_decode hw, latch_intensity hw, latch_scanlimit hw, latch_test hw, extract_zext8]
  obtain ⟨ch₁, hfold, hdecode, hscan, htest, hint⟩ := hsettings
  obtain ⟨sr, hrows⟩ := receive_rows cfg (fun _ => 0) digitIdxs ch₁
  simp only [digitReg] at hrows
  refine ⟨cfg.regShutdown ++ cfg.shutdownRunVal, ?_⟩
  rw [bootWrites, List.foldl_append, List.foldl_append, hfold, hrows, List.foldl_cons, List.foldl_nil, Chip.receive,
    latch_shutdown hw]
  refine Chip.ext rfl ?_ hdecode hscan rfl htest hint
  apply Vector.ext
  intro j hj
  simp [mem_digitIdxs]

/-- Boot leaves every chip configured and dark, at the default intensity (`10_state.md` R39). -/
theorem boot_chip {cfg : Config} (hw : cfg.wf = true) (s : State) (c : ChipIdx) :
    ∃ sr, (boot cfg s).chain.get c =
      { sr := sr, dig := Vector.replicate 8 0, decode := cfg.decodeOffVal, scanLimit := scanLimitVal,
        shutdown := cfg.shutdownRunVal, test := cfg.testOffVal, intensity := cfg.defaultIntensity } := by
  obtain ⟨sr, hsr⟩ := receive_bootWrites hw (s.chain.get c)
  refine ⟨sr, ?_⟩
  rw [← hsr, boot_eq, State.setPhase_chain, State.setWires_chain, State.emit_chain, onEvents_framesEvents_get,
    List.map_map]
  rfl

end Sys2Proof.Machine
end

section
/-! PROOFS. What each command that has a choice can do, said once: the cases of its next state. -/

namespace Sys2Proof.Machine

/-- SETDIG takes its fault, or writes FB and answers 0 (`43_glyph.md` R143, R144). -/
theorem setdig_cases (cfg : Config) (x y : Coord) (d : Fin 16) (s : State) :
    (∃ r, setdig cfg x y d s = raiseFault r s) ∨ ∃ b, setdig cfg x y d s = (s.setFb b).respond 0 := by
  unfold setdig
  cases setdigOperands x y d with
  | error r => exact .inl ⟨r, rfl⟩
  | ok operands => exact .inr ⟨_, rfl⟩

/-- BEGINADJ opens a session and writes FB, or only answers (`44_brightness.md` R152). -/
theorem beginadj_cases (cfg : Config) (s : State) :
    (∃ b, beginadj cfg s = ((s.setSession .adjusting).setFb b).respond 1) ∨ beginadj cfg s = s.respond 0 := by
  unfold beginadj
  cases s.session with
  | idle => exact .inl ⟨_, rfl⟩
  | adjusting => exact .inr rfl

/-- STEPADJ only answers, ends the session, or adjusts the level (`44_brightness.md` R153, R157). -/
theorem stepadj_cases (cfg : Config) (ev : Event) (s : State) :
    stepadj cfg ev s = s.respond 0 ∨
      (ev = .confirm ∧ stepadj cfg ev s = (s.setSession .idle).respond 2) ∨
      ((ev = .inc ∨ ev = .dec) ∧ ∃ l, stepadj cfg ev s = adjustTo cfg l s) := by
  unfold stepadj
  cases s.session with
  | idle => exact .inl rfl
  | adjusting =>
    cases ev with
    | none => exact .inl rfl
    | inc => exact .inr (.inr ⟨.inl rfl, _, rfl⟩)
    | dec => exact .inr (.inr ⟨.inr rfl, _, rfl⟩)
    | confirm => exact .inr (.inl ⟨rfl, rfl⟩)

/-- The push of a level is bus events, or nothing (`44_brightness.md` R156). -/
theorem pushLevel_emits (cfg : Config) (l : Level) (s : State) : ∃ es, pushLevel cfg l s = s.emit cfg es := by
  unfold pushLevel
  cases l with
  | auto => exact ⟨[], (emit_nil cfg s).symm⟩
  | manual n =>
    cases cfg.manualPush with
    | false => exact ⟨[], (emit_nil cfg s).symm⟩
    | true => exact ⟨broadcastEvents cfg.regIntensity (zext8 n), rfl⟩

/-- An adjustment writes LEVEL, emits bus events, writes FB and answers 1 (`44_brightness.md` R153). -/
theorem adjustTo_emits (cfg : Config) (l : Level) (s : State) :
    ∃ es b, adjustTo cfg l s = (((s.setLevel l).emit cfg es).setFb b).respond 1 := by
  obtain ⟨es, hpush⟩ := pushLevel_emits cfg l (s.setLevel l)
  exact ⟨es, _, by rw [adjustTo, hpush]⟩

/-- POLLAUTO updates, in automatic mode only, or only answers (`44_brightness.md` R160). -/
theorem pollauto_cases (cfg : Config) (s : State) :
    (s.level = .auto ∧ pollauto cfg s =
      ((s.broadcast cfg cfg.regIntensity (zext8 (sensorMap cfg (s.readingNow cfg)))).recordAuto
        (s.readingNow cfg) (s.tickNow cfg)).respond 0) ∨
      pollauto cfg s = s.respond 0 := by
  by_cases hu : autoUpdates cfg s = true
  · exact .inl ⟨((autoUpdates_iff cfg s).mp hu).1, by rw [pollauto, if_pos hu]⟩
  · exact .inr (by rw [pollauto, if_neg hu])

end Sys2Proof.Machine
end

section
/-! PROOFS. Acceptance of a command and the step that runs it (`10_state.md` R20, R35). -/

namespace Sys2Proof.Machine

/-- The block accepts a word exactly when it is ready, the host presents it, and `rst` is low (`10_state.md` R35). -/
theorem accepted_eq_some_iff (s : State) (w : Word) : s.accepted = some w ↔
    s.pins.rst = false ∧ s.pins.cmdValid = true ∧ s.phase = .run ∧ s.fault = false ∧ w = s.pins.cmd := by
  simp only [State.accepted, State.cmdReady, Option.ite_none_right_eq_some, Bool.and_eq_true, Bool.not_eq_true',
    decide_eq_true_eq, Option.some.injEq, eq_comm (a := w), and_assoc]

/-- Only a block whose boot is done accepts a word (`10_state.md` R26). -/
theorem phase_of_accepted {s : State} {w : Word} (h : s.accepted = some w) : s.phase = .run := by
  obtain ⟨-, -, hphase, -, -⟩ := (accepted_eq_some_iff s w).mp h
  exact hphase

/-- The host's turn: the next entry of the plan, or with none left `rst` and cmd_valid withdrawn (log 2). -/
theorem hostTurn_eq (t : State) : hostTurn t =
    match t.hostPlan with
    | p :: rest => { t with pins := p, hostPlan := rest }
    | [] => { t with pins := { t.pins with rst := false, cmdValid := false } } := by
  unfold hostTurn
  cases t.hostPlan with
  | nil => rfl
  | cons p rest => rfl

/-- A ready block that is presented the word of a command runs that command. -/
theorem step_of_decode {s : State} {i : Instr} (hrst : s.pins.rst = false) (hvalid : s.pins.cmdValid = true)
    (hrun : Running s) (hdec : decode s.pins.cmd = .ok i) : step s = mapNext hostTurn (exec i s) :=
  turn_ok _ _ ((accepted_eq_some_iff s _).mpr ⟨hrst, hvalid, hrun.1, hrun.2, rfl⟩) hdec

/-- A word of the command table is one the decoder accepts. -/
theorem decode_of_decodeTableWord {nbits w : Nat} {i : Instr} (h : decodeTableWord nbits w = some i) :
    decode (BitVec.ofNat 16 (w % 2 ^ nbits)) = .ok i := by
  simp only [decodeTableWord] at h
  split at h
  · cases hdec : decode (BitVec.ofNat 16 (w % 2 ^ nbits)) with
    | ok j =>
      rw [hdec] at h
      cases h
      rfl
    | error r =>
      rw [hdec] at h
      cases h
  · cases h

/-- Settles O4, by the rule for an accepted word and the equation of the host's turn. -/
theorem stepRunsDecodedCommand : Obligations.StepRunsDecodedCommand :=
  fun _ _ hrst hvalid hrun hdec => ⟨step_of_decode hrst hvalid hrun hdec, hostTurn_eq⟩

/-- Settles O5: the state that `withFetchWord` makes is ready and is presented the word. -/
theorem fetchedWordRunsNext : Obligations.FetchedWordRunsNext :=
  fun _ _ _ h => step_of_decode rfl rfl ⟨rfl, rfl⟩ (decode_of_decodeTableWord h)

/-- Settles O7: the second clause is the idle turn of phase Run. -/
theorem acceptsExactlyWhenReady : Obligations.AcceptsExactlyWhenReady := by
  refine fun s => ⟨accepted_eq_some_iff s, fun hrst hrun hnone => ?_⟩
  rw [step, turn_none _ _ hnone, blockIdle_run _ hrst hrun]
  rfl

end Sys2Proof.Machine
end

section
/-! PROOFS. Reset, and the invariant that every step keeps (`10_state.md` R24, R31 to R33, R38, R39). Before boot it is about
the block alone; from boot on, `RunInv` says what each operation keeps of it. -/

namespace Sys2Proof.Machine

/-! ### Reset -/

/-- Settles O9, field by field. -/
theorem resetStateValues : Obligations.ResetStateValues :=
  ⟨fun c d => ⟨read_zeroBuffer c d, read_zeroBuffer c d⟩, rfl, rfl, rfl, rfl, rfl, rfl, rfl, rfl, rfl, rfl, rfl, rfl⟩

/-- A reset of the block, from any state, leaves the invariant. -/
theorem inv_blockReset (cfg : Config) (s : State) : Inv cfg (blockReset cfg s) := by
  have hrecords : RecordsInRange cfg (blockReset cfg s) := ⟨Nat.two_pow_pos _, Nat.two_pow_pos _⟩
  have hblock : BlockAsReset cfg (blockReset cfg s) := ⟨rfl, rfl, rfl, rfl, rfl, rfl, rfl, rfl⟩
  exact ⟨⟨rfl, rfl⟩, hrecords, fun _ => hblock, fun hrun => Phase.noConfusion hrun⟩

/-- Settles O44: the state after reset is a reset of itself. -/
theorem resetMeetsInvariant : Obligations.ResetMeetsInvariant :=
  ⟨inv_blockReset Config.actual State.reset, fun cfg => inv_blockReset cfg (State.resetOn cfg)⟩

/-! ### The invariant after boot -/

/-- What the invariant says in phase Run. -/
structure RunInv (cfg : Config) (s : State) : Prop where
  phase : s.phase = .run
  lines : LinesAtRest s
  records : RecordsInRange cfg s
  digits : ChipsHoldSb s
  configured : ChipsConfigured cfg s
  intensity : IntensityFollowsLevel s

theorem RunInv.inv {cfg : Config} {s : State} (h : RunInv cfg s) : Inv cfg s :=
  ⟨h.lines, h.records, fun hboot => absurd (h.phase.symm.trans hboot) (by decide),
    fun _ => ⟨h.digits, h.configured, h.intensity⟩⟩

theorem Inv.runInv {cfg : Config} {s : State} (h : Inv cfg s) (hrun : s.phase = .run) : RunInv cfg s := by
  obtain ⟨hlines, hrecords, -, hchips⟩ := h
  obtain ⟨hdigits, hconf, hint⟩ := hchips hrun
  exact ⟨hrun, hlines, hrecords, hdigits, hconf, hint⟩

namespace RunInv

variable {cfg : Config} {s : State}

/-! FB, SESSION, FAULT, the sequencer, the response and the counter of free values are not in it. -/

theorem respond (h : RunInv cfg s) (code : BitVec 2) : RunInv cfg (s.respond code) := { h with }

theorem setFb (h : RunInv cfg s) (b : Buffer) : RunInv cfg (s.setFb b) := { h with }

theorem setSession (h : RunInv cfg s) (x : Session) : RunInv cfg (s.setSession x) := { h with }

theorem flushEnd (h : RunInv cfg s) : RunInv cfg (flushEnd s) := { h with }

theorem raiseFault (h : RunInv cfg s) (r : FaultReason) : RunInv cfg (raiseFault r s) := { h with }

/-- Automatic mode asks nothing of the chips' intensity. -/
theorem setLevel_auto (h : RunInv cfg s) : RunInv cfg (s.setLevel .auto) :=
  { h with intensity := fun _ hn => Level.noConfusion hn }

theorem recordAuto (h : RunInv cfg s) {r t : Nat} (hr : r < 2 ^ cfg.sensorW) (ht : t < 2 ^ cfg.tickW) :
    RunInv cfg (s.recordAuto r t) :=
  { h with records := ⟨hr, ht⟩ }

/-! ### The commands that use the bus -/

/-- Every chip takes an intensity frame: digit registers and other settings stay. -/
theorem push (hw : cfg.wf = true) (h : RunInv cfg s) (l : Level) (n : BitVec 4) (hn : ∀ m, l = .manual m → n = m) :
    RunInv cfg ((s.setLevel l).broadcast cfg cfg.regIntensity (zext8 n)) := by
  have hchip := intensity_frame_get hw s.chain n
  refine ⟨h.phase, broadcast_linesAtRest cfg _ _ _, h.records, fun c k => ?_, fun c => ?_, fun m hm c => ?_⟩
  all_goals rw [State.broadcast_chain, State.setLevel_chain, hchip]
  · exact h.digits c k
  · exact h.configured c
  · exact hn m hm

theorem settest (hw : cfg.wf = true) (h : RunInv cfg s) (b : Bool) : RunInv cfg (settest cfg b s) := by
  unfold Machine.settest
  generalize (if b then cfg.testOnVal else cfg.testOffVal) = v
  have hsent : RunInv cfg (s.broadcast cfg cfg.regTest v) := by
    refine ⟨h.phase, broadcast_linesAtRest cfg _ _ _, h.records, fun c k => ?_, fun c => ?_, fun m hm c => ?_⟩
    all_goals rw [State.broadcast_chain, onEvents_broadcast_get, Chip.receive, latch_test hw]
    · exact h.digits c k
    · exact h.configured c
    · exact h.intensity m hm c
  exact hsent.respond 0

/-- After the frames of a FLUSH the chips hold FB, which is then SB. -/
theorem flush (hw : cfg.wf = true) (h : RunInv cfg s) : RunInv cfg (flush cfg s) := by
  have hchip : ∀ c, ∃ sr, (s.emit cfg (framesEvents (flushPlan cfg s.fb s.sb))).chain.get c =
      { s.chain.get c with sr := sr, dig := s.fb.get c } := by
    intro c
    obtain ⟨sr, hsr⟩ := receive_flushPlan hw s.fb s.sb c (s.chain.get c) (h.digits c)
    exact ⟨sr, by rw [State.emit_chain, onEvents_framesEvents_get, hsr]⟩
  have hlines := emit_frames_linesAtRest cfg h.lines (flushPlan cfg s.fb s.sb)
  rw [flush_eq]
  generalize flushPlan cfg s.fb s.sb = ws at hchip hlines ⊢
  have hsent : RunInv cfg ((s.emit cfg (framesEvents ws)).setSb s.fb) := by
    refine ⟨h.phase, hlines, h.records, fun c k => ?_, fun c => ?_, fun m hm c => ?_⟩
    all_goals
      obtain ⟨sr, hc⟩ := hchip c
      rw [State.setSb_chain, hc]
    · rfl
    · exact h.configured c
    · exact h.intensity m hm c
  exact hsent.flushEnd.respond 0

/-- A manual level is pushed to the chips (MANUAL_PUSH, `44_brightness.md` R156); automatic mode asks nothing of them. -/
theorem adjustTo (hw : cfg.wf = true) (hpush : cfg.manualPush = true) (h : RunInv cfg s) (l : Level) :
    RunInv cfg (adjustTo cfg l s) := by
  cases l with
  | auto =>
    rw [adjustTo_auto]
    exact (h.setLevel_auto.setFb _).respond 1
  | manual n =>
    rw [adjustTo_manual hpush]
    exact ((h.push hw (.manual n) n fun _ hm => Level.manual.inj hm).setFb _).respond 1

theorem pollauto (hw : cfg.wf = true) (h : RunInv cfg s) : RunInv cfg (pollauto cfg s) := by
  rcases pollauto_cases cfg s with ⟨hauto, hp⟩ | hp
  · have hsent : RunInv cfg (s.broadcast cfg cfg.regIntensity (zext8 (sensorMap cfg (s.readingNow cfg)))) :=
      h.push hw s.level _ fun m hm => Level.noConfusion (hauto.symm.trans hm)
    rw [hp]
    exact (hsent.recordAuto (readingNow_lt cfg s) (tickNow_lt cfg s)).respond 0
  · rw [hp]
    exact h.respond 0

theorem setdig (h : RunInv cfg s) (x y : Coord) (d : Fin 16) : RunInv cfg (setdig cfg x y d s) := by
  rcases setdig_cases cfg x y d s with ⟨r, he⟩ | ⟨b, he⟩ <;> rw [he]
  · exact h.raiseFault r
  · exact (h.setFb b).respond 0

theorem beginadj (h : RunInv cfg s) : RunInv cfg (beginadj cfg s) := by
  rcases beginadj_cases cfg s with ⟨b, he⟩ | he <;> rw [he]
  · exact ((h.setSession _).setFb b).respond 1
  · exact h.respond 0

theorem stepadj (hw : cfg.wf = true) (hpush : cfg.manualPush = true) (h : RunInv cfg s) (ev : Event) :
    RunInv cfg (stepadj cfg ev s) := by
  rcases stepadj_cases cfg ev s with he | ⟨-, he⟩ | ⟨-, l, he⟩ <;> rw [he]
  · exact h.respond 0
  · exact (h.setSession _).respond 2
  · exact h.adjustTo hw hpush l

/-- Every command keeps the invariant of a running block. -/
theorem execOn (hw : cfg.wf = true) (hpush : cfg.manualPush = true) (h : RunInv cfg s) (i : Instr) :
    RunInv cfg (execOn cfg i s) := by
  cases i with
  | setpx x y b => exact (h.setFb _).respond 0
  | testpx x y => exact h.respond _
  | setdig x y d => exact h.setdig x y d
  | clear => exact (h.setFb _).respond 0
  | isempty => exact h.respond _
  | flush => exact h.flush hw
  | beginadj => exact h.beginadj
  | stepadj ev => exact h.stepadj hw hpush ev
  | pollauto => exact h.pollauto hw
  | settest b => exact h.settest hw b
  | dump => exact h.respond 0

/-- Boot turns a block as reset leaves it into one whose chips agree with it (`10_state.md` R39). -/
theorem boot (hw : cfg.wf = true) (hrecords : RecordsInRange cfg s) (hblock : BlockAsReset cfg s) :
    RunInv cfg (boot cfg s) := by
  obtain ⟨-, hsb, -, -, hlevel, -, -, -⟩ := hblock
  have hchip := boot_chip hw s
  rw [boot_eq] at hchip ⊢
  generalize (bootWrites cfg).map (fun w (_ : ChipIdx) => w) = ws at hchip ⊢
  refine ⟨rfl, ⟨rfl, rfl⟩, hrecords, fun c k => ?_, fun c => ?_, fun m hm c => ?_⟩
  all_goals
    obtain ⟨sr, hc⟩ := hchip c
    rw [hc]
  · have hzero : Buffer.read s.sb c k = 0 := by rw [hsb, read_zeroBuffer]
    exact (Vector.getElem_replicate _).trans hzero.symm
  · exact ⟨rfl, rfl, rfl⟩
  · exact Level.manual.inj (hlevel.symm.trans hm)

end RunInv

/-! ### The step -/

/-- The invariant says nothing of the host. -/
theorem inv_hostTurn {cfg : Config} {s : State} (h : Inv cfg s) : Inv cfg (hostTurn s) := by
  obtain ⟨p, l, hs⟩ := hostTurn_eq_setHost s
  rw [hs]
  exact h

theorem inv_blockIdle {cfg : Config} (hw : cfg.wf = true) {s : State} (h : Inv cfg s) : Inv cfg (blockIdle cfg s) := by
  cases hrst : s.pins.rst with
  | true =>
    rw [blockIdle_reset cfg hrst]
    exact inv_blockReset cfg s
  | false =>
    cases hphase : s.phase with
    | boot =>
      obtain ⟨-, hrecords, hblock, -⟩ := h
      rw [blockIdle_boot cfg hrst hphase]
      exact (RunInv.boot hw hrecords (hblock hphase)).inv
    | run =>
      rw [blockIdle_run cfg hrst hphase]
      exact h

theorem inv_stepOn {cfg : Config} (hw : cfg.wf = true) (hpush : cfg.manualPush = true) {s t : State} (h : Inv cfg s)
    (hstep : stepOn cfg s = .next t) : Inv cfg t := by
  have hrunning : ∀ {w}, s.accepted = some w → RunInv cfg s := fun hacc => h.runInv (phase_of_accepted hacc)
  rcases stepOn_cases cfg hstep with ⟨w, i, hacc, -, rfl⟩ | ⟨w, r, hacc, -, rfl⟩ | ⟨-, rfl⟩
  · exact inv_hostTurn ((hrunning hacc).execOn hw hpush i).inv
  · exact inv_hostTurn ((hrunning hacc).raiseFault r).inv
  · exact inv_hostTurn (inv_blockIdle hw h)

/-- Settles O45: the machine's own configuration is one of the well-formed ones with MANUAL_PUSH. -/
theorem stepKeepsInvariant : Obligations.StepKeepsInvariant :=
  ⟨fun s _ h hstep => inv_stepOn actual_wf actual_manualPush h ((step_eq_stepOn s).symm.trans hstep),
    fun _ _ _ hw hpush h hstep => inv_stepOn hw hpush h hstep⟩

end Sys2Proof.Machine
end

section
/-! PROOFS. The writers of each register (`10_state.md` R22 to R36), and the two registers that most commands do not read:
SB (R23) and SESSION (R28). -/

namespace Sys2Proof.Machine

/-- Settles O46: one case per command, by what its meaning can do. -/
theorem registersHaveTheirWriters : Obligations.RegistersHaveTheirWriters := by
  intro i s t h
  rw [exec_eq_execOn] at h
  cases h
  cases i with
  | setpx x y b => simp [execOn, setpx]
  | testpx x y => simp [execOn, testpx]
  | setdig x y d =>
    rcases setdig_cases Config.actual x y d s with ⟨r, he⟩ | ⟨b, he⟩ <;> simp [execOn, he, raiseFault]
  | clear => simp [execOn, clear]
  | isempty => simp [execOn, isempty]
  | flush => simp [execOn, flush_eq, flushEnd]
  | beginadj => rcases beginadj_cases Config.actual s with ⟨b, he⟩ | he <;> simp [execOn, he]
  | stepadj ev =>
    rcases stepadj_cases Config.actual ev s with he | ⟨rfl, he⟩ | ⟨hev, l, he⟩
    · simp [execOn, he]
    · simp [execOn, he]
    · obtain ⟨es, b, hadjust⟩ := adjustTo_emits Config.actual l s
      rcases hev with rfl | rfl <;> simp [execOn, he, hadjust]
  | pollauto => rcases pollauto_cases Config.actual s with ⟨-, he⟩ | he <;> simp [execOn, he]
  | settest b => simp [execOn, settest]
  | dump => simp [execOn, dump]

/-! ### SB and SESSION are hidden -/

/-- The state with another SB and another SESSION. -/
def State.withHidden (s : State) (b : Buffer) (x : Session) : State := (s.setSb b).setSession x

@[simp] theorem State.withHidden_sb (s : State) (b : Buffer) (x : Session) : (s.withHidden b x).sb = b := rfl

@[simp] theorem State.withHidden_session (s : State) (b : Buffer) (x : Session) : (s.withHidden b x).session = x := rfl

/-- SETDIG, POLLAUTO and the commands without a choice read neither SB nor SESSION and leave both. -/
theorem execOn_withHidden (cfg : Config) {i : Instr} (hf : i ≠ .flush) (hb : i ≠ .beginadj) (hs : ∀ ev, i ≠ .stepadj ev)
    (s : State) (b : Buffer) (x : Session) :
    execOn cfg i (s.withHidden b x) = (execOn cfg i s).withHidden b x := by
  cases i with
  | setpx | testpx | clear | isempty | settest | dump => rfl
  | setdig x y d =>
    simp only [execOn, setdig]
    cases setdigOperands x y d <;> rfl
  | pollauto =>
    have hcond : autoUpdates cfg (s.withHidden b x) = autoUpdates cfg s := rfl
    simp only [execOn, pollauto, hcond]
    cases autoUpdates cfg s <;> rfl
  | flush => exact absurd rfl hf
  | beginadj => exact absurd rfl hb
  | stepadj ev => exact absurd rfl (hs ev)

/-- A command that leaves both registers, whatever they hold, does so for SB alone. -/
theorem execOn_setSb_of_withHidden {cfg : Config} {i : Instr} {s : State}
    (h : ∀ b x, execOn cfg i (s.withHidden b x) = (execOn cfg i s).withHidden b x) (b : Buffer) :
    execOn cfg i (s.setSb b) = (execOn cfg i s).setSb b := by
  have hself : execOn cfg i s = (execOn cfg i s).withHidden s.sb s.session := h s.sb s.session
  have hsession : (execOn cfg i s).session = s.session := by rw [hself, State.withHidden_session]
  calc execOn cfg i (s.setSb b)
      = (execOn cfg i s).withHidden b s.session := h b s.session
    _ = (execOn cfg i s).setSb b := by rw [← hsession]; rfl

/-- A command that leaves both registers, whatever they hold, does so for SESSION alone. -/
theorem execOn_setSession_of_withHidden {cfg : Config} {i : Instr} {s : State}
    (h : ∀ b x, execOn cfg i (s.withHidden b x) = (execOn cfg i s).withHidden b x) (x : Session) :
    execOn cfg i (s.setSession x) = (execOn cfg i s).setSession x := by
  have hself : execOn cfg i s = (execOn cfg i s).withHidden s.sb s.session := h s.sb s.session
  have hsb : (execOn cfg i s).sb = s.sb := by rw [hself, State.withHidden_sb]
  calc execOn cfg i (s.setSession x)
      = (execOn cfg i s).withHidden s.sb x := h s.sb x
    _ = (execOn cfg i s).setSession x := by rw [← hsb]; rfl

theorem beginadj_setSb (cfg : Config) (s : State) (b : Buffer) : beginadj cfg (s.setSb b) = (beginadj cfg s).setSb b := by
  simp only [beginadj, State.setSb_session]
  cases s.session <;> rfl

theorem adjustTo_setSb (cfg : Config) (l : Level) (s : State) (b : Buffer) :
    adjustTo cfg l (s.setSb b) = (adjustTo cfg l s).setSb b := by
  unfold adjustTo pushLevel
  cases l with
  | auto => rfl
  | manual n => cases cfg.manualPush <;> rfl

theorem stepadj_setSb (cfg : Config) (ev : Event) (s : State) (b : Buffer) :
    stepadj cfg ev (s.setSb b) = (stepadj cfg ev s).setSb b := by
  simp only [stepadj, State.setSb_session, State.setSb_level, adjustTo_setSb]
  cases s.session with
  | idle => rfl
  | adjusting => cases ev <;> rfl

/-- FLUSH writes SB, and its effect is a function of FB, SB, the bus and the counter. -/
theorem flush_setSession (cfg : Config) (s : State) (x : Session) :
    flush cfg (s.setSession x) = (flush cfg s).setSession x := by
  rw [flush_eq, flush_eq, State.setSession_fb, State.setSession_sb]
  generalize flushPlan cfg s.fb s.sb = ws
  rfl

/-- Settles O50: BEGINADJ and STEPADJ write SESSION, not SB; every other command but FLUSH leaves both. -/
theorem shadowBufferIsHidden : Obligations.ShadowBufferIsHidden := by
  intro i s b hi
  have hset : execOn Config.actual i (s.setSb b) = (execOn Config.actual i s).setSb b := by
    cases i with
    | beginadj => exact beginadj_setSb Config.actual s b
    | stepadj ev => exact stepadj_setSb Config.actual ev s b
    | _ => exact execOn_setSb_of_withHidden (execOn_withHidden _ hi nofun nofun s) b
  rw [exec_eq_execOn, exec_eq_execOn]
  exact congrArg Host.Outcome.next hset

/-- Settles O51: FLUSH writes SB, not SESSION; every other command but BEGINADJ and STEPADJ leaves both. -/
theorem sessionGatesNothingElse : Obligations.SessionGatesNothingElse := by
  intro i s x hb hs
  have hset : execOn Config.actual i (s.setSession x) = (execOn Config.actual i s).setSession x := by
    by_cases hf : i = .flush
    · subst hf
      exact flush_setSession Config.actual s x
    · exact execOn_setSession_of_withHidden (execOn_withHidden _ hf hb hs s) x
  rw [exec_eq_execOn, exec_eq_execOn]
  exact congrArg Host.Outcome.next hset

end Sys2Proof.Machine
end

section
/-! PROOFS. FB as a 32-byte store (`20_memory.md` R51), and the commands that may be issued twice (R65). -/

namespace Sys2Proof.Machine

/-! ### The store -/

/-- The address of a digit register is one of the store, and reads that register. -/
theorem memRead_address (fb : Buffer) (c : ChipIdx) (d : DigitIdx) :
    memRead fb (8 * c.val + d.val) = some (Buffer.read fb c d) := by
  have hlt : 8 * c.val + d.val < 32 := by omega
  have hchip : (8 * c.val + d.val) / 8 = c.val := by omega
  have hdigit : (8 * c.val + d.val) % 8 = d.val := by omega
  simp only [memRead, hlt, dif_pos, hchip, hdigit]

/-- A write at the address of a digit register writes that register. -/
theorem memWrite_address (fb : Buffer) (c : ChipIdx) (d : DigitIdx) (v : Byte) :
    memWrite fb (8 * c.val + d.val) v = some (Buffer.write fb c d v) := by
  have hlt : 8 * c.val + d.val < 32 := by omega
  have hchip : (8 * c.val + d.val) / 8 = c.val := by omega
  have hdigit : (8 * c.val + d.val) % 8 = d.val := by omega
  simp only [memWrite, hlt, dif_pos, hchip, hdigit]

theorem memRead_outside (fb : Buffer) {a : Nat} (h : 32 ≤ a) : memRead fb a = none :=
  dif_neg (Nat.not_lt.mpr h)

theorem memWrite_outside (fb : Buffer) {a : Nat} (v : Byte) (h : 32 ≤ a) : memWrite fb a v = none :=
  dif_neg (Nat.not_lt.mpr h)

/-- Every address of the store is the address of a digit register (`20_memory.md` R51). -/
theorem exists_address {a : Nat} (h : a < 32) : ∃ (c : ChipIdx) (d : DigitIdx), a = 8 * c.val + d.val :=
  ⟨⟨a / 8, by omega⟩, ⟨a % 8, by omega⟩, (Nat.div_add_mod a 8).symm⟩

/-- A write to a digit register is not seen at another address. -/
theorem memRead_write_of_ne (fb : Buffer) (c : ChipIdx) (d : DigitIdx) (v : Byte) {a : Nat}
    (hne : a ≠ 8 * c.val + d.val) : memRead (Buffer.write fb c d v) a = memRead fb a := by
  by_cases ha : a < 32
  · obtain ⟨c', d', rfl⟩ := exists_address ha
    have hother : ¬ (c' = c ∧ d' = d) := by
      rintro ⟨rfl, rfl⟩
      exact hne rfl
    rw [memRead_address, memRead_address, read_write, if_neg hother]
  · rw [memRead_outside _ (Nat.not_lt.mp ha), memRead_outside _ (Nat.not_lt.mp ha)]

/-- Settles O16: an address below 32 is that of a digit register, where the write is a register write. -/
theorem framebufferByteStore : Obligations.FramebufferByteStore := by
  refine fun fb a v => ⟨fun h => ⟨memRead_outside fb h, memWrite_outside fb v h⟩, memRead_address fb, fun h => ?_⟩
  obtain ⟨c, d, rfl⟩ := exists_address h
  refine ⟨Buffer.write fb c d v, memWrite_address fb c d v, ?_, fun a' hne => memRead_write_of_ne fb c d v hne⟩
  rw [memRead_address, read_write, if_pos ⟨rfl, rfl⟩]

/-! ### Idempotent commands -/

theorem setPx_idem (fb : Buffer) (x y : Coord) (b : Bool) : setPx (setPx fb x y b) x y b = setPx fb x y b := by
  apply buffer_ext_pixels
  intro x' y'
  rw [testPx_setPx, testPx_setPx]
  split <;> rfl

theorem clear_idem (fb : Buffer) : Buffer.clear (Buffer.clear fb) = Buffer.clear fb := by
  rw [clear_eq_zeroBuffer, clear_eq_zeroBuffer]

/-- Drawing a digit on a picture that already shows it there changes no pixel. -/
theorem eq_of_digitDrawn_twice {cfg : Config} {p : CellPos} {d : Fin 10} {fb fb₁ fb₂ : Buffer}
    (h₁ : DigitDrawn cfg p d fb fb₁) (h₂ : DigitDrawn cfg p d fb₁ fb₂) : fb₂ = fb₁ := by
  apply buffer_ext_pixels
  intro x y
  specialize h₁ x y
  specialize h₂ x y
  cases hcell : offsetIn p x y with
  | none =>
    rw [hcell] at h₂
    exact h₂
  | some o =>
    rw [hcell] at h₁ h₂
    exact Bool.eq_iff_iff.mpr (h₂.trans h₁.symm)

theorem drawDigit_idem (cfg : Config) (fb : Buffer) (p : CellPos) (d : Fin 10) :
    drawDigit cfg (drawDigit cfg fb p d) p d = drawDigit cfg fb p d :=
  eq_of_digitDrawn_twice (drawDigit_drawn cfg fb p d) (drawDigit_drawn cfg _ p d)

/-- A command that only redraws FB and answers 0 may be issued twice when its redrawing may. -/
theorem redraw_twice (draw : Buffer → Buffer) (hdraw : ∀ fb, draw (draw fb) = draw fb) {f : State → State}
    (hf : ∀ s, f s = (s.setFb (draw s.fb)).respond 0) (s : State) : f (f s) = f s := by
  have hfb : (f s).fb = draw s.fb := by rw [hf, State.respond_fb, State.setFb_fb]
  rw [hf (f s), hfb, hdraw, hf]
  rfl

/-- SETDIG out of contract takes its fault again, in contract it draws the same digit again. -/
theorem setdig_idem (cfg : Config) (x y : Coord) (d : Fin 16) (s : State) :
    setdig cfg x y d (setdig cfg x y d s) = setdig cfg x y d s := by
  unfold setdig
  cases setdigOperands x y d with
  | error r => rfl
  | ok operands =>
    obtain ⟨p, v⟩ := operands
    exact redraw_twice (fun fb => drawDigit cfg fb p v) (fun fb => drawDigit_idem cfg fb p v) (fun _ => rfl) s

/-- Settles O52: writing the same pixels again changes nothing, and the answers are functions of FB, which TESTPX and ISEMPTY
leave. -/
theorem idempotentCommands : Obligations.IdempotentCommands := by
  intro i s t hi h
  rw [exec_eq_execOn] at h ⊢
  cases h
  refine congrArg Host.Outcome.next ?_
  rcases hi with ⟨x, y, b, rfl⟩ | ⟨x, y, rfl⟩ | ⟨x, y, d, rfl⟩ | rfl | rfl
  · exact redraw_twice (fun fb => setPx fb x y b) (fun fb => setPx_idem fb x y b) (fun _ => rfl) s
  · rfl
  · exact setdig_idem Config.actual x y d s
  · exact redraw_twice Buffer.clear clear_idem (fun _ => rfl) s
  · rfl

end Sys2Proof.Machine
end

section
/-! PROOFS. The bus: the events of a word and of a frame (`20_memory.md` R59, R61), what they leave on the lines (R58, R60),
and the frames that each command sends (R57, `30_encoding.md` R87). -/

namespace Sys2Proof.Machine

/-! ### Words, frames and lines -/

/-- Settles O38: the two bytes, each bit 7 first. -/
theorem wordIsSixteenBits : Obligations.WordIsSixteenBits := fun _ _ => rfl

@[simp] theorem length_bitsOf (v : BitVec 16) : (bitsOf v).length = 16 := rfl

/-- Settles O39: each of the four words is the sixteen bits of its two bytes. -/
theorem frameIsFourWordsAndStrobe : Obligations.FrameIsFourWordsAndStrobe := by
  intro w
  refine ⟨frameEvents_eq w, bitsOf ((w 3).1 ++ (w 3).2) ++ bitsOf ((w 2).1 ++ (w 2).2) ++
    bitsOf ((w 1).1 ++ (w 1).2) ++ bitsOf ((w 0).1 ++ (w 0).2), ?_, ?_⟩
  · simp only [List.length_append, length_bitsOf]
  · simp only [frameEvents_eq, wordEvents_eq, List.map_append, strobeEvents]

/-- Settles O53: single events by computation, runs of bits and frames by their rules. -/
theorem busEventsDriveLines : Obligations.BusEventsDriveLines := by
  refine fun cfg s => ⟨fun _ => rfl, fun bs => ?_, rfl, rfl, fun w => wires_frameEvents s.wires s.freeCtr w⟩
  obtain ⟨hload, -, -⟩ := wires_bits bs s.wires s.freeCtr
  exact hload

/-! ### The frames of a command -/

/-- From `s` to `t` the bus carries whole frames, at most eight, of the words that `30_encoding.md` R87 lists; the trace
records them and the chips receive them. -/
def CarriesFrames (cfg : Config) (s t : State) : Prop :=
  ∃ ws : List FrameWords, t.trace = s.trace ++ framesEvents ws ∧ t.chain = s.chain.onEvents cfg (framesEvents ws) ∧
    ws.length ≤ 8 ∧ ∀ w ∈ ws, ∀ c : ChipIdx, BusWordAllowed cfg (w c)

namespace CarriesFrames

variable {cfg : Config} {s t : State}

/-- No bus use is no frame. -/
theorem refl (cfg : Config) (s : State) : CarriesFrames cfg s s :=
  ⟨[], (List.append_nil _).symm, rfl, Nat.zero_le 8, fun _ hw => nomatch hw⟩

/-- A broadcast of a listed word is one frame (`20_memory.md` R62). -/
theorem broadcast (s : State) {r v : Byte} (hword : BusWordAllowed cfg (r, v)) :
    CarriesFrames cfg s (s.broadcast cfg r v) := by
  refine ⟨[fun _ => (r, v)], ?_, ?_, Nat.le_add_left 1 7, fun w hw c => ?_⟩
  · rw [State.broadcast_trace, broadcastEvents_eq]
  · rw [State.broadcast_chain, broadcastEvents_eq]
  · cases List.mem_singleton.mp hw
    exact hword

/-! Of two states it compares the trace and the chips only. -/

theorem respond (h : CarriesFrames cfg s t) (code : BitVec 2) : CarriesFrames cfg s (t.respond code) := h

theorem setFb (h : CarriesFrames cfg s t) (b : Buffer) : CarriesFrames cfg s (t.setFb b) := h

theorem setSession (h : CarriesFrames cfg s t) (x : Session) : CarriesFrames cfg s (t.setSession x) := h

theorem recordAuto (h : CarriesFrames cfg s t) (r n : Nat) : CarriesFrames cfg s (t.recordAuto r n) := h

theorem raiseFault (h : CarriesFrames cfg s t) (r : FaultReason) : CarriesFrames cfg s (raiseFault r t) := h

theorem of_setLevel {l : Level} (h : CarriesFrames cfg (s.setLevel l) t) : CarriesFrames cfg s t := h

end CarriesFrames

theorem busWordAllowed_intensity (cfg : Config) (n : BitVec 4) : BusWordAllowed cfg (cfg.regIntensity, zext8 n) := by
  have hlt : (zext8 n).toNat < 16 := by
    simp only [zext8, BitVec.toNat_setWidth]
    omega
  exact .inr (.inr (.inr (.inl ⟨rfl, hlt⟩)))

theorem busWordAllowed_test (cfg : Config) (b : Bool) :
    BusWordAllowed cfg (cfg.regTest, if b then cfg.testOnVal else cfg.testOffVal) := by
  cases b with
  | false => exact .inr (.inr (.inr (.inr (.inr (.inr (.inl rfl))))))
  | true => exact .inr (.inr (.inr (.inr (.inr (.inr (.inr rfl))))))

/-- A planned word is a digit word or the no-operation word (`42_flush.md` R128). -/
theorem busWordAllowed_plannedFrame (cfg : Config) (fb sb : Buffer) (j : Nat) (c : ChipIdx) :
    BusWordAllowed cfg (plannedFrame cfg fb sb j c) := by
  unfold plannedFrame
  cases (diffRows fb sb c)[j]? with
  | none => exact .inl rfl
  | some k =>
    have hreg : (BitVec.ofNat 8 (k.val + 1)).toNat = k.val + 1 := by
      rw [BitVec.toNat_ofNat]
      omega
    have hdigit : 1 ≤ (BitVec.ofNat 8 (k.val + 1)).toNat ∧ (BitVec.ofNat 8 (k.val + 1)).toNat ≤ 8 := by omega
    exact .inr (.inl hdigit)

/-- FLUSH adds its planned frames to the trace (`42_flush.md` R128). -/
theorem flush_trace (cfg : Config) (s : State) :
    (flush cfg s).trace = s.trace ++ framesEvents (flushPlan cfg s.fb s.sb) := by
  simp [flush_eq, flushEnd]

/-- The chips receive the planned frames of a FLUSH. -/
theorem flush_chain (cfg : Config) (s : State) :
    (flush cfg s).chain = s.chain.onEvents cfg (framesEvents (flushPlan cfg s.fb s.sb)) := by
  simp [flush_eq, flushEnd]

theorem carriesFrames_flush (cfg : Config) (s : State) : CarriesFrames cfg s (flush cfg s) := by
  refine ⟨flushPlan cfg s.fb s.sb, flush_trace cfg s, flush_chain cfg s, ?_, fun w hw c => ?_⟩
  · rw [flushPlan, List.length_map, List.length_range]
    exact framesNeeded_le s.fb s.sb
  · obtain ⟨j, -, rfl⟩ := List.mem_map.mp hw
    exact busWordAllowed_plannedFrame cfg s.fb s.sb j c

/-- The push of a level is one intensity frame, or none (`44_brightness.md` R156). -/
theorem carriesFrames_pushLevel (cfg : Config) (l : Level) (s : State) : CarriesFrames cfg s (pushLevel cfg l s) := by
  unfold pushLevel
  cases l with
  | auto => exact .refl cfg s
  | manual n =>
    cases cfg.manualPush with
    | false => exact .refl cfg s
    | true => exact .broadcast s (busWordAllowed_intensity cfg n)

/-- An adjustment uses the bus for its push only. -/
theorem carriesFrames_adjustTo (cfg : Config) (l : Level) (s : State) : CarriesFrames cfg s (adjustTo cfg l s) :=
  ((carriesFrames_pushLevel cfg l (s.setLevel l)).of_setLevel.setFb _).respond 1

/-- Every command's bus traffic, on every configuration. -/
theorem carriesFrames_execOn (cfg : Config) (i : Instr) (s : State) : CarriesFrames cfg s (execOn cfg i s) := by
  have hquiet : CarriesFrames cfg s s := .refl cfg s
  cases i with
  | setpx x y b => exact (hquiet.setFb _).respond 0
  | testpx x y => exact hquiet.respond _
  | setdig x y d =>
    rw [execOn]
    rcases setdig_cases cfg x y d s with ⟨r, he⟩ | ⟨b, he⟩ <;> rw [he]
    · exact hquiet.raiseFault r
    · exact (hquiet.setFb b).respond 0
  | clear => exact (hquiet.setFb _).respond 0
  | isempty => exact hquiet.respond _
  | flush => exact carriesFrames_flush cfg s
  | beginadj =>
    rw [execOn]
    rcases beginadj_cases cfg s with ⟨b, he⟩ | he <;> rw [he]
    · exact ((hquiet.setSession _).setFb b).respond 1
    · exact hquiet.respond 0
  | stepadj ev =>
    rw [execOn]
    rcases stepadj_cases cfg ev s with he | ⟨-, he⟩ | ⟨-, l, he⟩ <;> rw [he]
    · exact hquiet.respond 0
    · exact (hquiet.setSession _).respond 2
    · exact carriesFrames_adjustTo cfg l s
  | pollauto =>
    rw [execOn]
    rcases pollauto_cases cfg s with ⟨-, he⟩ | he <;> rw [he]
    · exact ((CarriesFrames.broadcast s (busWordAllowed_intensity cfg _)).recordAuto _ _).respond 0
    · exact hquiet.respond 0
  | settest b => exact (CarriesFrames.broadcast s (busWordAllowed_test cfg b)).respond 0
  | dump => exact hquiet.respond 0

/-- Frames are events: a run of frames is empty only when there is none. -/
theorem framesEvents_eq_nil_iff (ws : List FrameWords) : framesEvents ws = [] ↔ ws = [] := by
  cases ws with
  | nil => simp
  | cons w ws =>
    obtain ⟨b, bs, hframe⟩ := frameEvents_bits w
    simp [hframe]

/-- Settles O42: a command that sends a frame changes the trace, and the commands that do are those of R57. -/
theorem busCarriesWholeFrames : Obligations.BusCarriesWholeFrames := by
  intro i s t h
  obtain ⟨-, -, -, -, -, -, -, -, -, -, hbus⟩ := registersHaveTheirWriters i s t h
  have ht : execOn Config.actual i s = t := Host.Outcome.next.inj ((exec_eq_execOn i s).symm.trans h)
  obtain ⟨ws, htrace, hchain, hlen, hwords⟩ := carriesFrames_execOn Config.actual i s
  rw [ht] at htrace hchain
  refine ⟨ws, htrace, hlen, hwords, fun hne => hbus (.inl fun hsame => hne ?_), hchain⟩
  rw [htrace, List.append_right_eq_self] at hsame
  exact (framesEvents_eq_nil_iff ws).mp hsame

end Sys2Proof.Machine
end

section
/-! PROOFS. The block and the chips: what the LEDs show after a FLUSH (`20_memory.md` R72, `60_exceptions.md` R197), and that
the bus is write-only (`20_memory.md` R56). -/

namespace Sys2Proof.Machine

/-! ### The LEDs after a FLUSH -/

/-- A FLUSH brings a chip that holds SB to FB, and leaves its other registers but the shift register (`42_flush.md` R126). -/
theorem flush_chip {cfg : Config} (hw : cfg.wf = true) {s : State} (h : ChipsHoldSb s) (c : ChipIdx) :
    ∃ sr, (flush cfg s).chain.get c = { s.chain.get c with sr := sr, dig := s.fb.get c } := by
  obtain ⟨sr, hsr⟩ := receive_flushPlan hw s.fb s.sb c (s.chain.get c) (h c)
  exact ⟨sr, by rw [flush_chain, onEvents_framesEvents_get, hsr]⟩

/-- A chip shows its digit registers when its settings are those of boot (`60_exceptions.md` R197). -/
theorem showsBitmap_iff (cfg : Config) (ch : Chip) : ch.showsBitmap cfg = true ↔
    ch.decode = cfg.decodeOffVal ∧ ch.scanLimit = scanLimitVal ∧ ch.test = cfg.testOffVal ∧
      ch.shutdown = cfg.shutdownRunVal := by
  simp only [Chip.showsBitmap, Bool.and_eq_true, decide_eq_true_eq, and_assoc]

/-- Chips that show their digit registers and hold a picture show that picture. -/
theorem litPixel_eq_testPx {cfg : Config} {ch : Chain} {fb : Buffer} (hshow : ∀ c, (ch.get c).showsBitmap cfg = true)
    (hdig : ∀ c, (ch.get c).dig = fb.get c) (x y : Coord) : litPixel cfg ch x y = some (testPx fb x y) := by
  simp only [litPixel, hshow, if_true, hdig, testPx, Buffer.read]

/-- Settles O43: after the FLUSH every chip holds FB, and its settings are still those of boot. -/
theorem ledsShowFramebufferAfterFlush : Obligations.LedsShowFramebufferAfterFlush := by
  intro s hinv hrun htest
  have h : RunInv Config.actual s := hinv.runInv hrun.1
  have hchip := flush_chip actual_wf h.digits
  refine ⟨flush Config.actual s, rfl, litPixel_eq_testPx (fun c => ?_) fun c => ?_⟩
  all_goals
    obtain ⟨sr, hc⟩ := hchip c
    rw [hc]
  obtain ⟨hdecode, hscan, hshutdown⟩ := h.configured c
  exact (showsBitmap_iff _ _).mpr ⟨hdecode, hscan, htest c, hshutdown⟩

/-! ### The chips are never read -/

/-- The state with other chips. -/
def State.withChain (s : State) (c : Chain) : State := { s with chain := c }

@[simp] theorem State.withChain_fb (s : State) (c : Chain) : (s.withChain c).fb = s.fb := rfl
@[simp] theorem State.withChain_sb (s : State) (c : Chain) : (s.withChain c).sb = s.sb := rfl
@[simp] theorem State.withChain_session (s : State) (c : Chain) : (s.withChain c).session = s.session := rfl
@[simp] theorem State.withChain_level (s : State) (c : Chain) : (s.withChain c).level = s.level := rfl
@[simp] theorem State.withChain_hostPlan (s : State) (c : Chain) : (s.withChain c).hostPlan = s.hostPlan := rfl

/-- The operation does the same to the rest of the state, whatever the chips hold. -/
def IgnoresChips (f : State → State) : Prop :=
  ∀ (s : State) (c : Chain), ∃ c' : Chain, f (s.withChain c) = (f s).withChain c'

namespace IgnoresChips

theorem comp {f g : State → State} (hg : IgnoresChips g) (hf : IgnoresChips f) : IgnoresChips (fun s => g (f s)) := by
  intro s c
  obtain ⟨c₁, h₁⟩ := hf s c
  obtain ⟨c₂, h₂⟩ := hg (f s) c₁
  exact ⟨c₂, (congrArg g h₁).trans h₂⟩

theorem respond (code : BitVec 2) : IgnoresChips (fun s => s.respond code) := fun _ c => ⟨c, rfl⟩

theorem raiseFault (r : FaultReason) : IgnoresChips (raiseFault r) := fun _ c => ⟨c, rfl⟩

/-- The chips react to what is sent, and nothing comes back (`20_memory.md` R56). -/
theorem emit (cfg : Config) (es : List BusEvent) : IgnoresChips (fun s => s.emit cfg es) :=
  fun _ c => ⟨c.onEvents cfg es, rfl⟩

/-! ### The commands -/

theorem setdig (cfg : Config) (x y : Coord) (d : Fin 16) : IgnoresChips (setdig cfg x y d) := by
  intro s c
  unfold Machine.setdig
  cases setdigOperands x y d with
  | error r => exact raiseFault r s c
  | ok operands => exact ⟨c, rfl⟩

theorem beginadj (cfg : Config) : IgnoresChips (beginadj cfg) := by
  intro s c
  simp only [Machine.beginadj, State.withChain_session]
  cases s.session with
  | idle => exact ⟨c, rfl⟩
  | adjusting => exact respond 0 s c

theorem pushLevel (cfg : Config) (l : Level) : IgnoresChips (pushLevel cfg l) := by
  unfold Machine.pushLevel
  cases l with
  | auto => exact fun _ c => ⟨c, rfl⟩
  | manual n =>
    cases cfg.manualPush with
    | false => exact fun _ c => ⟨c, rfl⟩
    | true => exact emit cfg (broadcastEvents cfg.regIntensity (zext8 n))

theorem adjustTo (cfg : Config) (l : Level) : IgnoresChips (adjustTo cfg l) := by
  have hlevel : IgnoresChips (fun s => s.setLevel l) := fun _ c => ⟨c, rfl⟩
  have hpicture : IgnoresChips (fun s => (s.setFb (renderLevel cfg l s.fb)).respond 1) := fun _ c => ⟨c, rfl⟩
  exact hpicture.comp ((pushLevel cfg l).comp hlevel)

theorem stepadj (cfg : Config) (ev : Event) : IgnoresChips (stepadj cfg ev) := by
  intro s c
  simp only [Machine.stepadj, State.withChain_session, State.withChain_level]
  cases s.session with
  | idle => exact respond 0 s c
  | adjusting =>
    cases ev with
    | none => exact respond 0 s c
    | inc => exact adjustTo cfg s.level.up s c
    | dec => exact adjustTo cfg s.level.down s c
    | confirm => exact ⟨c, rfl⟩

/-- Whether a poll is due, and what it sends, is decided by the pins and the block's own records. -/
theorem pollauto (cfg : Config) : IgnoresChips (pollauto cfg) := by
  intro s c
  have hcond : autoUpdates cfg (s.withChain c) = autoUpdates cfg s := rfl
  simp only [Machine.pollauto, hcond]
  cases autoUpdates cfg s with
  | false => exact respond 0 s c
  | true => exact ⟨c.onEvents cfg (broadcastEvents cfg.regIntensity (zext8 (sensorMap cfg (s.readingNow cfg)))), rfl⟩

/-- The frames of a FLUSH are a function of FB and SB (`42_flush.md` R131). -/
theorem flush (cfg : Config) : IgnoresChips (flush cfg) := by
  intro s c
  rw [flush_eq, flush_eq, State.withChain_fb, State.withChain_sb]
  generalize framesEvents (flushPlan cfg s.fb s.sb) = es
  exact ⟨c.onEvents cfg es, rfl⟩

theorem execOn (cfg : Config) (i : Instr) : IgnoresChips (execOn cfg i) := by
  cases i with
  | setpx | testpx | clear | isempty | dump => exact fun _ c => ⟨c, rfl⟩
  | setdig x y d => exact setdig cfg x y d
  | flush => exact flush cfg
  | beginadj => exact beginadj cfg
  | stepadj ev => exact stepadj cfg ev
  | pollauto => exact pollauto cfg
  | settest b =>
    exact (respond 0).comp (emit cfg (broadcastEvents cfg.regTest (if b then cfg.testOnVal else cfg.testOffVal)))

/-! ### The turns of the block and of the host -/

theorem boot (cfg : Config) : IgnoresChips (boot cfg) := by
  intro s c
  rw [boot_eq, boot_eq]
  generalize framesEvents ((bootWrites cfg).map fun w (_ : ChipIdx) => w) = es
  exact ⟨c.onEvents cfg es, rfl⟩

theorem blockIdle (cfg : Config) : IgnoresChips (blockIdle cfg) := by
  intro s c
  cases hrst : s.pins.rst with
  | true =>
    rw [blockIdle_reset cfg hrst, blockIdle_reset cfg (s := s.withChain c) hrst]
    exact ⟨c, rfl⟩
  | false =>
    cases hphase : s.phase with
    | boot =>
      rw [blockIdle_boot cfg hrst hphase, blockIdle_boot cfg (s := s.withChain c) hrst hphase]
      exact boot cfg (s.setResponse none) c
    | run =>
      rw [blockIdle_run cfg hrst hphase, blockIdle_run cfg (s := s.withChain c) hrst hphase]
      exact ⟨c, rfl⟩

theorem hostTurn : IgnoresChips hostTurn := by
  intro s c
  simp only [Machine.hostTurn, State.withChain_hostPlan]
  cases s.hostPlan with
  | nil => exact ⟨c, rfl⟩
  | cons p rest => exact ⟨c, rfl⟩

end IgnoresChips

/-- Whether a word is accepted, and which, is decided without the chips; each of the three turns ignores them. -/
theorem stepOn_withChain (cfg : Config) (s : State) (c : Chain) :
    ∃ c' : Chain, stepOn cfg (s.withChain c) = mapNext (fun t => t.withChain c') (stepOn cfg s) := by
  have hturn : ∀ {f : State → State}, IgnoresChips f →
      ∃ c', Host.Outcome.next (hostTurn (f (s.withChain c))) =
        mapNext (fun t => t.withChain c') (.next (hostTurn (f s))) := fun hf => by
    obtain ⟨c', h⟩ := IgnoresChips.hostTurn.comp hf s c
    exact ⟨c', congrArg Host.Outcome.next h⟩
  have haccepted : (s.withChain c).accepted = s.accepted := rfl
  cases hacc : s.accepted with
  | none =>
    rw [stepOn, stepOn, turn_none _ _ hacc, turn_none _ _ (haccepted.trans hacc)]
    exact hturn (.blockIdle cfg)
  | some w =>
    cases hdec : decode w with
    | ok i =>
      rw [stepOn, stepOn, turn_ok _ _ hacc hdec, turn_ok _ _ (haccepted.trans hacc) hdec]
      exact hturn (.execOn cfg i)
    | error r =>
      rw [stepOn, stepOn, turn_error _ _ hacc hdec, turn_error _ _ (haccepted.trans hacc) hdec]
      exact hturn (.raiseFault r)

/-- Settles O48: the machine is the one on its own configuration. -/
theorem blockNeverReadsChips : Obligations.BlockNeverReadsChips := by
  intro s c
  obtain ⟨c', h⟩ := stepOn_withChain Config.actual s c
  exact ⟨c', by rw [step_eq_stepOn, step_eq_stepOn]; exact h⟩

end Sys2Proof.Machine
end

section
/-! PROOFS. Encoding (`30_encoding.md`): decode and encode are inverse (R82 to R84), and the reason of each word that is no
command (R85). The decoder is read row by row of the command table, the encoder command by command. -/

namespace Sys2Proof

/-! ### Operand fields -/

@[simp] theorem natField_fieldNat (f : BitVec 4) : natField (fieldNat f) = f := rfl

@[simp] theorem boolField_and_mask (b : Bool) : boolField b &&& 0xE = 0 := by cases b <;> rfl

@[simp] theorem getLsbD_boolField (b : Bool) : (boolField b).getLsbD 0 = b := by cases b <;> rfl

/-- A field 000b is its own Boolean's field. -/
theorem boolField_boolOperand {v : BitVec 4} (h : v &&& 0xE = 0) (a x y : BitVec 4) :
    boolField (boolOperand (formatC a x y v)) = v := by
  rw [boolOperand, getLsbD_formatC _ _ _ _ 0 (by omega)]
  revert v
  decide

@[simp] theorem eventField_and_mask (ev : Event) : eventField ev &&& 0xC = 0 := by cases ev <;> rfl

@[simp] theorem eventOperand_eventField (ev : Event) (a x y : BitVec 4) :
    eventOperand (formatC a x y (eventField ev)) = ev := by
  rw [eventOperand, getLsbD_formatC _ _ _ _ 0 (by omega), getLsbD_formatC _ _ _ _ 1 (by omega)]
  cases ev <;> rfl

/-- A field 00ee is its own event's field. -/
theorem eventField_eventOperand {v : BitVec 4} (h : v &&& 0xC = 0) (a x y : BitVec 4) :
    eventField (eventOperand (formatC a x y v)) = v := by
  rw [eventOperand, getLsbD_formatC _ _ _ _ 0 (by omega), getLsbD_formatC _ _ _ _ 1 (by omega)]
  revert v
  decide

/-! ### The decoder by the rows of the command table -/

/-- What the decoder can answer: no row has the word's operation code, or one has it and its mask test decides
(`30_encoding.md` R85). -/
theorem decode_cases (w : Word) :
    ((∀ r ∈ opTable, opField r.matchBits ≠ opField w) ∧ decode w = .error .reservedOpcode) ∨
      ∃ r ∈ opTable, opField r.matchBits = opField w ∧
        decode w = if w &&& r.mask = r.matchBits then .ok (r.build w) else .error .nonZeroField := by
  cases hfind : opTable.find? (fun r => opField r.matchBits == opField w) with
  | none => exact .inl ⟨by simpa using hfind, by simp only [decode, hfind]⟩
  | some r =>
    have hop : opField r.matchBits = opField w := by simpa using List.find?_some hfind
    exact .inr ⟨r, List.mem_of_find?_eq_some hfind, hop, by simp only [decode, hfind]⟩

/-- The test of a word under a mask against an operation code alone, on the fields. -/
theorem and_mask_eq_iff (w m : Word) (b : BitVec 4) :
    w &&& m = formatC b 0 0 0 ↔
      opField w &&& opField m = b ∧ xField w &&& xField m = 0 ∧ yField w &&& yField m = 0 ∧ vField w &&& vField m = 0 := by
  rw [← formatC_and_eq, formatC_fields, formatC_fields]

/-- A row matches on its whole operation code and asks for zeros elsewhere (`30_encoding.md` R82). -/
theorem opTable_shape : ∀ r ∈ opTable,
    opField r.mask = 15#4 ∧ r.matchBits = formatC (opField r.matchBits) 0 0 0 ∧
      r.mask &&& 0x0FFF = formatC 0 (xField r.mask) (yField r.mask) (vField r.mask) := by
  decide

/-- The operation code determines the mask: no two rows share a code. -/
theorem opTable_mask_unique :
    ∀ r ∈ opTable, ∀ r' ∈ opTable, opField r.matchBits = opField r'.matchBits → r.mask = r'.mask := by
  decide

/-- On a word with the row's operation code, the mask test is that the must-be-zero bits are 0. -/
theorem row_matches_iff {r : OpRow} (hr : r ∈ opTable) {w : Word} (hop : opField r.matchBits = opField w) :
    w &&& r.mask = r.matchBits ↔ w &&& (r.mask &&& 0x0FFF) = 0 := by
  obtain ⟨hmask, hmatch, hzeros⟩ := opTable_shape r hr
  have hlow : w &&& (r.mask &&& 0x0FFF) = 0 ↔
      xField w &&& xField r.mask = 0 ∧ yField w &&& yField r.mask = 0 ∧ vField w &&& vField r.mask = 0 := by
    rw [hzeros]
    exact (and_mask_eq_iff w _ 0).trans (by simp)
  rw [hlow, hmatch, and_mask_eq_iff, hmask, and_fifteen, hop]
  exact and_iff_right rfl

/-- The words of no row (`30_encoding.md` R85 (1)). -/
theorem decode_eq_reservedOpcode_iff (w : Word) :
    decode w = .error .reservedOpcode ↔ ∀ r ∈ opTable, opField r.matchBits ≠ opField w := by
  rcases decode_cases w with ⟨hnone, hdec⟩ | ⟨r, hr, hop, hdec⟩
  · exact iff_of_true hdec hnone
  · refine iff_of_false ?_ fun hnone => hnone r hr hop
    rw [hdec]
    split <;> simp

/-- The words of a row that set one of its must-be-zero bits (`30_encoding.md` R85 (2)). -/
theorem decode_eq_nonZeroField_iff (w : Word) :
    decode w = .error .nonZeroField ↔
      ∃ r ∈ opTable, opField r.matchBits = opField w ∧ w &&& (r.mask &&& 0x0FFF) ≠ 0 := by
  rcases decode_cases w with ⟨hnone, hdec⟩ | ⟨r, hr, hop, hdec⟩
  · exact iff_of_false (by simp [hdec]) fun ⟨r, hr, hop, _⟩ => hnone r hr hop
  · have hrow : decode w = .error .nonZeroField ↔ w &&& (r.mask &&& 0x0FFF) ≠ 0 := by
      rw [hdec, ne_eq, ← row_matches_iff hr hop]
      by_cases hm : w &&& r.mask = r.matchBits <;> simp [hm]
    refine hrow.trans ⟨fun hbits => ⟨r, hr, hop, hbits⟩, fun ⟨r', hr', hop', hbits⟩ => ?_⟩
    rwa [opTable_mask_unique r hr r' hr' (hop.trans hop'.symm)]

/-- Decode gives the first two reasons of `30_encoding.md` R85 only. -/
theorem decode_error_cases {w : Word} {e : FaultReason} (h : decode w = .error e) :
    e = .reservedOpcode ∨ e = .nonZeroField := by
  rcases decode_cases w with ⟨-, hdec⟩ | ⟨r, -, -, hdec⟩
  · exact .inl (Except.error.inj (h.symm.trans hdec))
  · rw [hdec] at h
    split at h
    · cases h
    · exact .inr (Except.error.inj h).symm

/-! ### Decode after encode, and encode after decode -/

/-- The word of a command decodes to it, by the decoder's answer for its operation code. -/
theorem decode_encode (i : Instr) : decode (encode i) = .ok i := by
  cases i with
  | setpx x y b => rw [encode, decode_setpx, if_pos (boolField_and_mask b), getLsbD_boolField]; rfl
  | testpx x y => exact (decode_testpx _ _ _).trans (if_pos rfl)
  | setdig x y d => exact decode_setdig _ _ _
  | clear => exact (decode_clear _ _ _).trans (if_pos ⟨rfl, rfl, rfl⟩)
  | isempty => exact (decode_isempty _ _ _).trans (if_pos ⟨rfl, rfl, rfl⟩)
  | flush => exact (decode_flush _ _ _).trans (if_pos ⟨rfl, rfl, rfl⟩)
  | beginadj => exact (decode_beginadj _ _ _).trans (if_pos ⟨rfl, rfl, rfl⟩)
  | stepadj ev => rw [encode, decode_stepadj, if_pos ⟨rfl, rfl, eventField_and_mask ev⟩, eventOperand_eventField]
  | pollauto => exact (decode_pollauto _ _ _).trans (if_pos ⟨rfl, rfl, rfl⟩)
  | settest b => rw [encode, decode_settest, if_pos ⟨rfl, rfl, boolField_and_mask b⟩, getLsbD_boolField]
  | dump => exact (decode_dump _ _ _).trans (if_pos ⟨rfl, rfl, rfl⟩)

/-- Under a full mask only the match word itself passes. -/
theorem eq_of_and_fullMask {w m : Word} (h : w &&& 0xFFFF = m) : m = w := h.symm.trans BitVec.and_allOnes

/-- A word that passes the mask test of a row is the word of the command the row builds from it: the row's operands and its
mask cover all sixteen bits. -/
theorem encode_build {r : OpRow} (hr : r ∈ opTable) {w : Word} (h : w &&& r.mask = r.matchBits) :
    encode (r.build w) = w := by
  obtain ⟨a, x, y, v, rfl⟩ : ∃ a x y v, w = formatC a x y v := ⟨_, _, _, _, (formatC_fields w).symm⟩
  simp only [opTable, List.mem_cons, List.not_mem_nil, or_false] at hr
  rcases hr with rfl | rfl | rfl | rfl | rfl | rfl | rfl | rfl | rfl | rfl | rfl
  · obtain ⟨ha, -, -, hv⟩ := (formatC_and_eq a x y v 15#4 0 0 0xE 1).mp h
    rw [and_fifteen] at ha
    simp [encode, ha, boolField_boolOperand hv]
  · obtain ⟨ha, -, -, hv⟩ := (formatC_and_eq a x y v 15#4 0 0 15#4 2).mp h
    rw [and_fifteen] at ha hv
    simp [encode, ha, hv]
  · obtain ⟨ha, -, -, -⟩ := (formatC_and_eq a x y v 15#4 0 0 0 3).mp h
    rw [and_fifteen] at ha
    simp [encode, ha]
  · exact eq_of_and_fullMask h
  · exact eq_of_and_fullMask h
  · exact eq_of_and_fullMask h
  · exact eq_of_and_fullMask h
  · obtain ⟨ha, hx, hy, hv⟩ := (formatC_and_eq a x y v 15#4 15#4 15#4 0xC 8).mp h
    rw [and_fifteen] at ha hx hy
    simp [encode, ha, hx, hy, eventField_eventOperand hv]
  · exact eq_of_and_fullMask h
  · obtain ⟨ha, hx, hy, hv⟩ := (formatC_and_eq a x y v 15#4 15#4 15#4 0xE 10).mp h
    rw [and_fifteen] at ha hx hy
    simp [encode, ha, hx, hy, boolField_boolOperand hv]
  · exact eq_of_and_fullMask h

/-- A word that decodes to a command is the word of that command. -/
theorem encode_of_decode {w : Word} {i : Instr} (h : decode w = .ok i) : encode i = w := by
  rcases decode_cases w with ⟨-, hdec⟩ | ⟨r, hr, -, hdec⟩
  · cases h.symm.trans hdec
  · rw [hdec] at h
    split at h
    · next hmatch =>
      cases h
      exact encode_build hr hmatch
    · cases h

/-- Settles O1: the encoder command by command, then the decoder row by row. -/
theorem decodeEncodeInverse : Obligations.DecodeEncodeInverse :=
  ⟨decode_encode, fun _ _ => encode_of_decode⟩

/-! ### The words that are no command -/

/-- The operation codes without a row. -/
theorem no_row_iff (a : BitVec 4) :
    (∀ r ∈ opTable, opField r.matchBits ≠ a) ↔ (a.toNat = 0 ∨ 12 ≤ a.toNat) := by
  revert a
  decide

/-- The must-be-zero bits of each row, written out; SETDIG has none (`30_encoding.md` R82). -/
theorem nonZeroBits_iff (w : Word) (a : BitVec 4) :
    (∃ r ∈ opTable, opField r.matchBits = a ∧ w &&& (r.mask &&& 0x0FFF) ≠ 0) ↔
      ((a.toNat = 1 ∧ w &&& 0x000E ≠ 0) ∨ (a.toNat = 2 ∧ w &&& 0x000F ≠ 0) ∨
        (a.toNat ∈ [4, 5, 6, 7, 9, 11] ∧ w &&& 0x0FFF ≠ 0) ∨
        (a.toNat = 8 ∧ w &&& 0x0FFC ≠ 0) ∨ (a.toNat = 10 ∧ w &&& 0x0FFE ≠ 0)) := by
  have hop : ∀ n : BitVec 4, n = a ↔ a.toNat = n.toNat := fun _ => eq_comm.trans BitVec.toNat_inj.symm
  simp only [opTable, List.mem_cons, List.not_mem_nil, or_false, exists_eq_or_imp, exists_eq_left]
  simp only [opField, hop, or_and_right, or_assoc, BitVec.ofNat_eq_ofNat, BitVec.reduceExtractLsb', BitVec.toNat_ofNat,
    Nat.reducePow, Nat.one_mod, Nat.reduceMod, BitVec.reduceAnd, BitVec.and_zero, ne_eq, not_true_eq_false, and_false,
    false_or]
  -- the rows in the table's order on the left, by their masks on the right
  apply iff_of_eq
  ac_rfl

/-- Settles O2: each reason in terms of the command table's rows, and the rows written out. -/
theorem decodeRejectsExactly : Obligations.DecodeRejectsExactly := fun w =>
  ⟨(decode_eq_reservedOpcode_iff w).trans (no_row_iff _), (decode_eq_nonZeroField_iff w).trans (nonZeroBits_iff w _),
    fun h => by simpa using decode_error_cases h, fun h => by simpa using decode_error_cases h⟩

end Sys2Proof
end

section
/-! PROOFS. Responses (`30_encoding.md` R86, `60_exceptions.md` R180, R183): a command in contract answers 0, 1 or 2, and one
out of contract answers 3. -/

namespace Sys2Proof.Machine

/-- SETDIG is in contract exactly when the digit and the cell are in range (`30_encoding.md` R85 (3) and (4)). -/
theorem wf_setdig_iff (x y : Coord) (d : Fin 16) :
    (Instr.setdig x y d).wf = true ↔ d.val ≤ 9 ∧ x.val ≤ 13 ∧ y.val ≤ 11 := by
  simp [Instr.wf, Instr.digitOk, Instr.cellOk]

/-- Only SETDIG can be out of contract. -/
theorem eq_setdig_of_not_wf {i : Instr} (h : i.wf = false) : ∃ x y d, i = .setdig x y d := by
  cases i with
  | setdig x y d => exact ⟨x, y, d, rfl⟩
  | _ => cases h

/-- The operands of a SETDIG in contract pass its check. -/
theorem setdigOperands_of_wf {x y : Coord} {d : Fin 16} (h : (Instr.setdig x y d).wf = true) :
    ∃ operands, setdigOperands x y d = .ok operands := by
  obtain ⟨hd, hcell⟩ := (wf_setdig_iff x y d).mp h
  exact ⟨_, by rw [setdigOperands, dif_pos hd, dif_pos hcell]⟩

/-- The operands of a SETDIG out of contract do not. -/
theorem setdigOperands_of_not_wf {x y : Coord} {d : Fin 16} (h : (Instr.setdig x y d).wf = false) :
    ∃ r, setdigOperands x y d = .error r := by
  by_cases hd : d.val ≤ 9
  · have hcell : ¬ (x.val ≤ 13 ∧ y.val ≤ 11) := fun hcell => by
      rw [(wf_setdig_iff x y d).mpr ⟨hd, hcell⟩] at h
      cases h
    exact ⟨.cellRange, by rw [setdigOperands, dif_pos hd, dif_neg hcell]⟩
  · exact ⟨.digitValue, by rw [setdigOperands, dif_neg hd]⟩

/-- The code of a Boolean is not the code of a fault. -/
theorem boolCode_ne_three (b : Bool) : boolCode b ≠ 3 := by cases b <;> decide

/-- A command in contract answers a code other than 3. -/
theorem execOn_response_of_wf (cfg : Config) {i : Instr} (h : i.wf = true) (s : State) :
    ∃ code, (execOn cfg i s).response = some code ∧ code ≠ 3 := by
  cases i with
  | setpx x y b => exact ⟨0, rfl, by decide⟩
  | testpx x y => exact ⟨_, rfl, boolCode_ne_three _⟩
  | setdig x y d =>
    obtain ⟨operands, hok⟩ := setdigOperands_of_wf h
    exact ⟨0, by simp only [execOn, setdig, hok, State.respond_response], by decide⟩
  | clear => exact ⟨0, rfl, by decide⟩
  | isempty => exact ⟨_, rfl, boolCode_ne_three _⟩
  | flush => exact ⟨0, rfl, by decide⟩
  | beginadj =>
    rcases beginadj_cases cfg s with ⟨b, he⟩ | he
    · exact ⟨1, by rw [execOn, he, State.respond_response], by decide⟩
    · exact ⟨0, by rw [execOn, he, State.respond_response], by decide⟩
  | stepadj ev =>
    rcases stepadj_cases cfg ev s with he | ⟨-, he⟩ | ⟨-, l, he⟩
    · exact ⟨0, by rw [execOn, he, State.respond_response], by decide⟩
    · exact ⟨2, by rw [execOn, he, State.respond_response], by decide⟩
    · exact ⟨1, by rw [execOn, he, adjustTo, State.respond_response], by decide⟩
  | pollauto =>
    rcases pollauto_cases cfg s with ⟨-, he⟩ | he
    · exact ⟨0, by rw [execOn, he, State.respond_response], by decide⟩
    · exact ⟨0, by rw [execOn, he, State.respond_response], by decide⟩
  | settest b => exact ⟨0, rfl, by decide⟩
  | dump => exact ⟨0, rfl, by decide⟩

/-- A command out of contract is a SETDIG that takes its fault and answers 3. -/
theorem execOn_response_of_not_wf (cfg : Config) {i : Instr} (h : i.wf = false) (s : State) :
    (execOn cfg i s).response = some 3 := by
  obtain ⟨x, y, d, rfl⟩ := eq_setdig_of_not_wf h
  obtain ⟨r, herr⟩ := setdigOperands_of_not_wf h
  simp only [execOn, setdig, herr, raiseFault, State.respond_response]

/-- Settles O47, by whether the command is in contract. -/
theorem everyCommandResponds : Obligations.EveryCommandResponds := by
  intro i s
  cases hwf : i.wf with
  | false => exact ⟨_, 3, exec_eq_execOn i s, execOn_response_of_not_wf _ hwf s, iff_of_true rfl rfl⟩
  | true =>
    obtain ⟨code, hresp, hne⟩ := execOn_response_of_wf Config.actual hwf s
    exact ⟨_, code, exec_eq_execOn i s, hresp, iff_of_false hne (by decide)⟩

end Sys2Proof.Machine
end

section
/-! PROOFS. The pixel mapper (`40_addressing.md`): its three coordinates as numbers and as bits, its inverse, the layout of the chips,
and the mapper on wider numbers. -/

namespace Sys2Proof.Machine

/-! ### The coordinates of a cell as numbers -/

@[simp] theorem toCell_chip_val (x y : Coord) : (toCell x y).chip.val = x.val / 8 + 2 * (y.val / 8) := rfl

@[simp] theorem toCell_digit_val (x y : Coord) : (toCell x y).digit.val = y.val % 8 := rfl

@[simp] theorem toCell_segment_val (x y : Coord) : (toCell x y).segment.val = 7 - x.val % 8 := rfl

@[simp] theorem fromCell_fst_val (k : Cell) : (fromCell k).1.val = 8 * (k.chip.val % 2) + (7 - k.segment.val) := rfl

@[simp] theorem fromCell_snd_val (k : Cell) : (fromCell k).2.val = 8 * (k.chip.val / 2) + k.digit.val := rfl

/-- A cell is its three coordinates, as numbers. -/
theorem cell_ext_val {k k' : Cell} (hchip : k.chip.val = k'.chip.val) (hdigit : k.digit.val = k'.digit.val)
    (hsegment : k.segment.val = k'.segment.val) : k = k' := by
  cases k
  cases k'
  rw [Cell.mk.injEq]
  exact ⟨Fin.ext hchip, Fin.ext hdigit, Fin.ext hsegment⟩

/-! ### The coordinates of a cell as bits -/

/-- Of a 4-bit number, the quotient by 8 is bit 3. -/
theorem toNat_div_eight (x : BitVec 4) : x.toNat / 8 = (x.getLsbD 3).toNat := by
  have hx := x.isLt
  rw [BitVec.getLsbD, Nat.toNat_testBit]
  omega

/-- The chip of a cell is bit 3 of y above bit 3 of x. -/
theorem toCell_chip_bits (x y : BitVec 4) :
    BitVec.ofFin (w := 2) (toCell x.toFin y.toFin).chip =
      BitVec.ofBool (y.getLsbD 3) ++ BitVec.ofBool (x.getLsbD 3) := by
  apply BitVec.eq_of_toNat_eq
  have hchip : (BitVec.ofFin (w := 2) (toCell x.toFin y.toFin).chip).toNat = x.toNat / 8 + 2 * (y.toNat / 8) := rfl
  rw [hchip, toNat_div_eight, toNat_div_eight]
  cases x.getLsbD 3 <;> cases y.getLsbD 3 <;> rfl

/-- The digit of a cell is the low three bits of y. -/
theorem toCell_digit_bits (x y : BitVec 4) :
    BitVec.ofFin (w := 3) (toCell x.toFin y.toFin).digit = y.extractLsb' 0 3 := by
  apply BitVec.eq_of_toNat_eq
  have hdigit : (BitVec.ofFin (w := 3) (toCell x.toFin y.toFin).digit).toNat = y.toNat % 2 ^ 3 := rfl
  rw [hdigit, BitVec.extractLsb'_toNat, Nat.shiftRight_zero]

/-- The segment of a cell is the complement of the low three bits of x. -/
theorem toCell_segment_bits (x y : BitVec 4) :
    BitVec.ofFin (w := 3) (toCell x.toFin y.toFin).segment = ~~~ x.extractLsb' 0 3 := by
  apply BitVec.eq_of_toNat_eq
  have hsegment : (BitVec.ofFin (w := 3) (toCell x.toFin y.toFin).segment).toNat = 2 ^ 3 - 1 - x.toNat % 2 ^ 3 := rfl
  rw [hsegment, BitVec.toNat_not, BitVec.extractLsb'_toNat, Nat.shiftRight_zero]

/-- Settles O35: the numbers are the definition's, the bits are read off them coordinate by coordinate. -/
theorem toCellFormula : Obligations.ToCellFormula :=
  ⟨fun x y => ⟨toCell_chip_val x y, toCell_digit_val x y, toCell_segment_val x y⟩,
    fun x y => ⟨toCell_chip_bits x y, toCell_digit_bits x y, toCell_segment_bits x y⟩, by decide⟩

/-! ### The inverse and the layout of the chips -/

theorem fromCell_toCell (x y : Coord) : fromCell (toCell x y) = (x, y) := by
  have hx : (fromCell (toCell x y)).1.val = x.val := by
    rw [fromCell_fst_val, toCell_chip_val, toCell_segment_val]; omega
  have hy : (fromCell (toCell x y)).2.val = y.val := by
    rw [fromCell_snd_val, toCell_chip_val, toCell_digit_val]; omega
  exact Prod.ext (Fin.ext hx) (Fin.ext hy)

theorem toCell_fromCell (k : Cell) : toCell (fromCell k).1 (fromCell k).2 = k := by
  apply cell_ext_val
  · rw [toCell_chip_val, fromCell_fst_val, fromCell_snd_val]; omega
  · rw [toCell_digit_val, fromCell_snd_val]; omega
  · rw [toCell_segment_val, fromCell_fst_val]; omega

/-- A chip holds the pixels of one half of the columns and one half of the rows. -/
theorem toCell_chip_eq_iff (x y : Coord) (c : ChipIdx) :
    (toCell x y).chip = c ↔ x.val / 8 = c.val % 2 ∧ y.val / 8 = c.val / 2 := by
  rw [Fin.ext_iff, toCell_chip_val]
  omega

/-- The pixel j columns right of the first column of a chip: the same register, bit 7 - j. -/
theorem toCell_row {x x' : Coord} (y : Coord) {j : Fin 8} (hx : x.val % 8 = 0) (hx' : x'.val = x.val + j.val) :
    (toCell x' y).chip = (toCell x y).chip ∧ (toCell x' y).digit = (toCell x y).digit ∧
      (toCell x' y).segment.val = 7 - j.val := by
  have hdiv : x'.val / 8 = x.val / 8 := by omega
  have hmod : x'.val % 8 = j.val := by omega
  exact ⟨Fin.ext (by rw [toCell_chip_val, toCell_chip_val, hdiv]), rfl, by rw [toCell_segment_val, hmod]⟩

/-- Settles O36: the quadrants are the rule for one chip, the row is the rule for one register. -/
theorem toCellBijective : Obligations.ToCellBijective := by
  refine ⟨fromCell_toCell, toCell_fromCell, ?distinct, ?quadrants, ?row⟩
  case distinct =>
    intro x y x' y' hne heq
    obtain ⟨rfl, rfl⟩ := toCell_injective heq
    exact hne rfl
  case quadrants =>
    intro x y
    simp only [toCell_chip_eq_iff]
    refine ⟨?_, ?_, ?_, ?_⟩ <;> omega
  case row =>
    intro x y hx
    exact ⟨Fin.ext (by rw [toCell_segment_val, hx]; rfl), fun x' j hx' => toCell_row y hx hx'⟩

/-! ### The mapper on wider numbers -/

theorem toCellNat_eq_none_iff (x y : Nat) : toCellNat x y = none ↔ 16 ≤ x ∨ 16 ≤ y := by
  unfold toCellNat
  split
  · next h => exact iff_of_false (Option.some_ne_none _) (by omega)
  · next h => exact iff_of_true rfl (by omega)

/-- In range the mapper on numbers is `toCell`. -/
theorem toCellNat_val (x y : Coord) : toCellNat x.val y.val = some (toCell x y) :=
  dif_pos ⟨x.isLt, y.isLt⟩

/-- Settles O37: out of range there is no value, and numbers that are coordinates have that of `toCell`. -/
theorem toCellRefusesOutOfRange : Obligations.ToCellRefusesOutOfRange := by
  intro x y
  refine ⟨toCellNat_eq_none_iff x y, ?inRange⟩
  rintro x' y' rfl rfl
  exact toCellNat_val x' y'

end Sys2Proof.Machine
end

section
/-! PROOFS. The FrameBuffer commands (`41_framebuffer_ops.md`): the next state of each, what it writes to FB, and what TESTPX and
ISEMPTY answer of FB. -/

namespace Sys2Proof.Machine

/-! ### The next state of each command -/

/-- SETPX replaces FB and answers 0 (`41_framebuffer_ops.md` R110). -/
theorem exec_setpx (x y : Coord) (b : Bool) (s : State) :
    exec (.setpx x y b) s = .next { s with fb := setPx s.fb x y b, response := some 0 } := rfl

/-- TESTPX only answers (`41_framebuffer_ops.md` R112). -/
theorem exec_testpx (x y : Coord) (s : State) :
    exec (.testpx x y) s = .next { s with response := some (boolCode (testPx s.fb x y)) } := rfl

/-- CLEAR replaces FB by the zero register file and answers 0 (`41_framebuffer_ops.md` R113). -/
theorem exec_clear (s : State) : exec .clear s = .next { s with fb := zeroBuffer, response := some 0 } := by
  have hclear : exec .clear s = .next ((s.setFb (Buffer.clear s.fb)).respond 0) := rfl
  rw [hclear, clear_eq_zeroBuffer]
  rfl

/-- ISEMPTY only answers (`41_framebuffer_ops.md` R114). -/
theorem exec_isempty (s : State) :
    exec .isempty s = .next { s with response := some (boolCode (Buffer.isZero s.fb)) } := rfl

/-! ### Pixels and bytes -/

/-- A pixel write is a write to the byte of the pixel's cell: no other byte changes (`41_framebuffer_ops.md` R111). -/
theorem memRead_setPx_of_ne (fb : Buffer) (x y : Coord) (v : Bool) {a : Nat}
    (hne : a ≠ 8 * (toCell x y).chip.val + (toCell x y).digit.val) : memRead (setPx fb x y v) a = memRead fb a :=
  memRead_write_of_ne fb _ _ _ hne

/-- A pixel is the bit at the numbers that the pixel mapper's formulas give (`40_addressing.md` R100). -/
theorem testPx_eq_getLsbD (fb : Buffer) {x y : Coord} {c : ChipIdx} {d : DigitIdx}
    (hc : c.val = x.val / 8 + 2 * (y.val / 8)) (hd : d.val = y.val % 8) :
    testPx fb x y = (Buffer.read fb c d).getLsbD (7 - x.val % 8) := by
  have hchip : (toCell x y).chip = c := Fin.ext ((toCell_chip_val x y).trans hc.symm)
  have hdigit : (toCell x y).digit = d := Fin.ext ((toCell_digit_val x y).trans hd.symm)
  rw [testPx, hchip, hdigit, toCell_segment_val]

/-- Every byte of the zero register file is 0x00. -/
theorem memRead_zeroBuffer {a : Nat} (h : a < 32) : memRead zeroBuffer a = some 0 := by
  obtain ⟨c, d, rfl⟩ := exists_address h
  rw [memRead_address, read_zeroBuffer]

/-- ISEMPTY of a register file of zero bytes answers 1. -/
theorem exec_isempty_of_zero {s : State} (h : ∀ c d, Buffer.read s.fb c d = 0) :
    exec .isempty s = .next { s with response := some 1 } := by
  rw [exec_isempty, (isZero_iff s.fb).mpr h]
  rfl

/-- ISEMPTY of a register file with a byte that is not zero answers 0. -/
theorem exec_isempty_of_ne_zero {s : State} {c : ChipIdx} {d : DigitIdx} (h : Buffer.read s.fb c d ≠ 0) :
    exec .isempty s = .next { s with response := some 0 } := by
  have hzero : Buffer.isZero s.fb = false :=
    Bool.eq_false_iff.mpr fun htrue => h ((isZero_iff s.fb).mp htrue c d)
  rw [exec_isempty, hzero]
  rfl

/-! ### The statements -/

/-- Settles O12: FB is the pixel write's, whose pixels and bytes are known, and TESTPX reads the pixel back. -/
theorem setpxWritesOnePixel : Obligations.SetpxWritesOnePixel := by
  intro s x y b
  refine ⟨_, exec_setpx x y b s, fun x' y' => testPx_setPx s.fb x y x' y' b,
    fun a hne => memRead_setPx_of_ne s.fb x y b hne, rfl, ?readBack⟩
  case readBack =>
    have hpixel : testPx (setPx s.fb x y b) x y = b := by rw [testPx_setPx, if_pos ⟨rfl, rfl⟩]
    rw [exec_testpx, hpixel]
    rfl

/-- Settles O13: the answer is the pixel, and the pixel is the bit at the numbers of R100. -/
theorem testpxAnswersPixel : Obligations.TestpxAnswersPixel := by
  intro s x y c d hc hd
  refine ⟨_, exec_testpx x y s, ?answer, rfl⟩
  case answer =>
    rw [← testPx_eq_getLsbD s.fb hc hd]
    rfl

/-- Settles O14: after CLEAR FB is the zero register file, of which ISEMPTY answers 1. -/
theorem clearZeroesFramebuffer : Obligations.ClearZeroesFramebuffer :=
  fun s => ⟨_, exec_clear s, fun _ ha => memRead_zeroBuffer ha, rfl, exec_isempty_of_zero read_zeroBuffer⟩

/-- Settles O15: the zero test answers each of the two cases. -/
theorem isemptyAnswersExactly : Obligations.IsemptyAnswersExactly :=
  fun _ => ⟨exec_isempty_of_zero, fun ⟨_, _, h⟩ => exec_isempty_of_ne_zero h⟩

end Sys2Proof.Machine
end

section
/-! PROOFS. FLUSH (`42_flush.md`): the frames it sends and what it leaves (R121, R126, R128), and the search inside it (R123,
R124, R129). -/

namespace Sys2Proof.Machine

/-! ### The next state -/

theorem exec_flush (s : State) : exec .flush s = .next (flush Config.actual s) := exec_eq_execOn .flush s

@[simp] theorem flush_fb (cfg : Config) (s : State) : (flush cfg s).fb = s.fb := by simp [flush_eq, flushEnd]

@[simp] theorem flush_sb (cfg : Config) (s : State) : (flush cfg s).sb = s.fb := by simp [flush_eq, flushEnd]

/-- FLUSH changes SB, the sequencer, the bus and the response, and nothing else (`42_flush.md` R121). -/
theorem flush_frame (cfg : Config) (s : State) :
    flush cfg s =
      { s with sb := s.fb, seq := (flush cfg s).seq, freeCtr := (flush cfg s).freeCtr, wires := (flush cfg s).wires,
               chain := (flush cfg s).chain, trace := (flush cfg s).trace, response := some 0 } := by
  rw [flush_eq]
  generalize framesEvents (flushPlan cfg s.fb s.sb) = es
  rfl

/-- Settles O20: the planned frames, on the trace and to the chips, and the frame rule of FLUSH. -/
theorem flushSendsPlannedFrames : Obligations.FlushSendsPlannedFrames :=
  ⟨flush_trace, fun s =>
    ⟨_, exec_flush s, flush_trace _ s, flush_chain _ s, flush_frame _ s⟩⟩

/-! ### Reconciliation -/

/-- Equal register files have no differing row. -/
@[simp] theorem diffRows_self (fb : Buffer) (c : ChipIdx) : diffRows fb fb c = [] := by
  rw [List.eq_nil_iff_forall_not_mem]
  intro k hk
  exact (mem_diffRows fb fb c k).mp hk rfl

/-- Equal register files need no frame (`42_flush.md` R126). -/
@[simp] theorem flushPlan_self (cfg : Config) (fb : Buffer) : flushPlan cfg fb fb = [] := by
  simp [flushPlan, framesNeeded]

/-- Whatever a chip holds, the frames of a FLUSH write its differing rows and nothing else but the shift register. -/
theorem receive_flushPlan_rows {cfg : Config} (hw : cfg.wf = true) (fb sb : Buffer) (c : ChipIdx) (ch : Chip) :
    ∃ sr, ((flushPlan cfg fb sb).map (· c)).foldl (Chip.receive cfg) ch =
      { ch with sr := sr
                dig := Vector.ofFn fun j => if j ∈ diffRows fb sb c then Buffer.read fb c j else ch.dig.get j } := by
  obtain ⟨sr₁, hrows⟩ := receive_rows cfg (Buffer.read fb c) (diffRows fb sb c) ch
  obtain ⟨sr, hnoops⟩ := receive_noops hw cfg.noopVal (framesNeeded fb sb - (diffRows fb sb c).length)
    (((diffRows fb sb c).map fun k => (digitReg k, Buffer.read fb c k)).foldl (Chip.receive cfg) ch)
  refine ⟨sr, ?_⟩
  rw [flushPlan, plannedWords_eq cfg fb sb c (diffRows_length_le fb sb c), List.foldl_append, hnoops, hrows]
  rfl

/-- FLUSH leaves a chip's settings as they were (`60_exceptions.md` R194). -/
theorem flush_chip_settings {cfg : Config} (hw : cfg.wf = true) (s : State) (c : ChipIdx) :
    ∃ sr dig, (flush cfg s).chain.get c = { s.chain.get c with sr := sr, dig := dig } := by
  obtain ⟨sr, hch⟩ := receive_flushPlan_rows hw s.fb s.sb c (s.chain.get c)
  exact ⟨sr, _, by rw [flush_chain, onEvents_framesEvents_get, hch]⟩

/-- A FLUSH with nothing to send leaves the trace. -/
theorem flush_trace_of_eq (cfg : Config) {s : State} (h : s.sb = s.fb) : (flush cfg s).trace = s.trace := by
  rw [flush_trace, h, flushPlan_self, framesEvents_nil, List.append_nil]

/-- A FLUSH with nothing to send leaves the chips. -/
theorem flush_chain_of_eq (cfg : Config) {s : State} (h : s.sb = s.fb) : (flush cfg s).chain = s.chain := by
  rw [flush_chain, h, flushPlan_self, framesEvents_nil, onEvents_nil]

/-- Settles O21: after the first FLUSH SB = FB, so the second has nothing to send. -/
theorem flushReconciles : Obligations.FlushReconciles := by
  intro s
  have hsame : (flush Config.actual s).sb = (flush Config.actual s).fb := by rw [flush_sb, flush_fb]
  refine ⟨_, _, exec_flush s, flush_sb _ s, flush_fb _ s, exec_flush _, flush_trace_of_eq _ hsame,
    flush_chain_of_eq _ hsame, (flush_sb _ _).trans hsame.symm, flush_fb _ _, fun hheld c k => ?digits, fun c => ?settings⟩
  case digits =>
    obtain ⟨sr, hchip⟩ := flush_chip actual_wf hheld c
    rw [hchip]
    rfl
  case settings =>
    obtain ⟨sr, dig, hchip⟩ := flush_chip_settings actual_wf s c
    rw [hchip]
    exact ⟨rfl, rfl, rfl, rfl, rfl⟩

/-! ### The search -/

theorem digitIdxs_getElem {i : Nat} (hi : i < digitIdxs.length) : digitIdxs[i] = ⟨i, hi⟩ := by
  have h : ∀ k : DigitIdx, digitIdxs[k.val]'k.isLt = k := by decide
  exact h ⟨i, hi⟩

/-- The search finds the least differing row from its start on (`42_flush.md` R123). -/
theorem nextRow_eq_some {fb sb : Buffer} {c : ChipIdx} {start : Fin 9} {k : DigitIdx} (hstart : start.val ≤ k.val)
    (hdiff : Buffer.read fb c k ≠ Buffer.read sb c k)
    (hleast : ∀ j : DigitIdx, start.val ≤ j.val → j < k → Buffer.read fb c j = Buffer.read sb c j) :
    nextRow fb sb c start = some k := by
  rw [nextRow, List.find?_eq_some_iff_getElem]
  refine ⟨by simp [rowDiffers, hstart, hdiff], k.val, k.isLt, digitIdxs_getElem _, fun j hj => ?_⟩
  rw [digitIdxs_getElem]
  by_cases hle : start.val ≤ j
  · simp [rowDiffers, hleast ⟨j, by omega⟩ hle hj]
  · simp [hle]

/-- The search finds nothing when no row differs from its start on (`42_flush.md` R123). -/
theorem nextRow_eq_none {fb sb : Buffer} {c : ChipIdx} {start : Fin 9}
    (hsame : ∀ k : DigitIdx, start.val ≤ k.val → Buffer.read fb c k = Buffer.read sb c k) :
    nextRow fb sb c start = none := by
  rw [nextRow, List.find?_eq_none]
  intro k _
  by_cases hle : start.val ≤ k.val
  · simp [rowDiffers, hsame k hle]
  · simp [hle]

/-- A word of FLUSH when the search finds a row: the digit word, SB's byte and the search start (`42_flush.md` R123, R124). -/
theorem flushWord_of_nextRow_some (cfg : Config) {s : State} {p : Fin 4} {c : ChipIdx} (hc : chainOrder.get p = c)
    {k : DigitIdx} (hk : nextRow s.fb s.sb c (s.seq.next.get c) = some k) :
    flushWord cfg s p =
      ((s.emit cfg (wordEvents (digitReg k, Buffer.read s.fb c k))).setSb
        (Buffer.write s.sb c k (Buffer.read s.fb c k))).setSeq
          { s.seq with pos := p, next := s.seq.next.set c.val (afterRow k) } := by
  simp only [flushWord, hc, State.setSeq_fb, State.setSeq_sb, State.setSeq_seq, hk]
  rfl

/-- A word of FLUSH when the search finds no row: the no-operation word and the search start (`42_flush.md` R123). -/
theorem flushWord_of_nextRow_none (cfg : Config) {s : State} {p : Fin 4} {c : ChipIdx} (hc : chainOrder.get p = c)
    (hk : nextRow s.fb s.sb c (s.seq.next.get c) = none) :
    flushWord cfg s p =
      (s.emit cfg (wordEvents (cfg.regNoop, cfg.noopVal))).setSeq
        { s.seq with pos := p, next := s.seq.next.set c.val 8 } := by
  simp only [flushWord, hc, State.setSeq_fb, State.setSeq_sb, State.setSeq_seq, hk]
  rfl

/-- CHAIN_ORDER sends the word of the last chip first (`20_memory.md` R55). -/
theorem chainOrder_get {p : Fin 4} {c : ChipIdx} (h : c.val = 3 - p.val) : chainOrder.get p = c := by
  revert p c
  decide

/-- Settles O23: the two answers of the search, each with its word. -/
theorem flushWordUpdatesSbAtOnce : Obligations.FlushWordUpdatesSbAtOnce := by
  intro cfg s p c hc
  refine ⟨fun k hstart hdiff hleast => ?row, fun hsame => ?noRow⟩
  case row =>
    rw [flushWord_of_nextRow_some cfg (chainOrder_get hc) (nextRow_eq_some hstart hdiff hleast)]
    exact ⟨rfl, rfl, by simp [Vector.get_eq_getElem, afterRow], rfl⟩
  case noRow =>
    rw [flushWord_of_nextRow_none cfg (chainOrder_get hc) (nextRow_eq_none hsame)]
    exact ⟨rfl, rfl, by simp [Vector.get_eq_getElem], rfl⟩

/-- FLUSH begins with every search start at 0 (`42_flush.md` R121, R123). -/
theorem flushStart_next_get (s : State) (c : ChipIdx) : ((flushStart s).seq.next.get c).val = 0 := by
  simp [flushStart, Vector.get_eq_getElem]

/-- Below a search start of 0 there is no row. -/
theorem searchSound_flushStart (s : State) : SearchSound (flushStart s) := by
  intro c k hk
  rw [flushStart_next_get] at hk
  exact absurd hk (Nat.not_lt_zero _)

/-- Settles O24: the start, a word and a frame of FLUSH, each by what it does. -/
theorem flushSearchIsSound : Obligations.FlushSearchIsSound := by
  refine ⟨fun s => ⟨searchSound_flushStart s, flushStart_next_get s⟩, fun cfg s p h => ?word, fun cfg s f h => ?frame⟩
  case word =>
    obtain ⟨_, _, -, hsound, -⟩ := flushWord_spec cfg s p h
    exact hsound
  case frame =>
    obtain ⟨_, _, -, hsound, -⟩ := flushFrame_spec cfg s f h
    exact hsound

end Sys2Proof.Machine
end

section
/-! PROOFS. How many frames and words a FLUSH sends, and why no fewer frames do (`42_flush.md` R127). -/

namespace Sys2Proof.Machine

/-! ### Events and words of a run of frames -/

/-- Events that every frame holds the same number of, in a run of frames. -/
theorem countP_framesEvents {p : BusEvent → Bool} {m : Nat} (h : ∀ w, (frameEvents w).countP p = m)
    (ws : List FrameWords) : (framesEvents ws).countP p = m * ws.length := by
  induction ws with
  | nil => rfl
  | cons w ws ih => rw [framesEvents_cons, List.countP_append, h, ih, List.length_cons, Nat.mul_succ, Nat.add_comm]

/-- A frame holds 64 bits (`20_memory.md` R61). -/
theorem countP_bit_frameEvents (w : FrameWords) :
    (frameEvents w).countP (fun e => decide (e = .bit true ∨ e = .bit false)) = 64 := by
  obtain ⟨-, bits, hlen, hframe⟩ := frameIsFourWordsAndStrobe w
  have hbits : (bits.map BusEvent.bit).countP (fun e => decide (e = .bit true ∨ e = .bit false)) =
      (bits.map BusEvent.bit).length := by
    rw [List.countP_eq_length]
    intro e he
    obtain ⟨b, -, rfl⟩ := List.mem_map.mp he
    cases b <;> rfl
  rw [hframe, List.countP_append, hbits, List.length_map, hlen]
  rfl

/-- A frame holds one strobe pulse, its falling and its rising edge (`20_memory.md` R61). -/
theorem count_strobe_frameEvents (w : FrameWords) :
    (frameEvents w).count .strobeLow = 1 ∧ (frameEvents w).count .strobeHigh = 1 := by
  obtain ⟨-, bits, -, hframe⟩ := frameIsFourWordsAndStrobe w
  simp [hframe, List.count_eq_zero_of_not_mem]

/-- The words of a run of frames, counted chip by chip. -/
theorem countP_words (p : Byte × Byte → Bool) (ws : List FrameWords) :
    (ws.flatMap fun w => chipIdxs.map w).countP p = (chipIdxs.map fun c => (ws.map (· c)).countP p).sum := by
  induction ws with
  | nil => rfl
  | cons w ws ih =>
    rw [List.flatMap_cons, List.countP_append, ih]
    simp only [chipIdxs, List.map_cons, List.map_nil, List.countP_cons, List.countP_nil, List.sum_cons, List.sum_nil]
    omega

/-- The address of a digit register is one of 1..8 (`20_memory.md` R52). -/
theorem digitReg_range (k : DigitIdx) : 1 ≤ (digitReg k).toNat ∧ (digitReg k).toNat ≤ 8 := by
  revert k
  decide

/-- The no-operation code selects no digit register (`00_scope.md` R4). -/
theorem regNoop_not_digit {cfg : Config} (hw : cfg.wf = true) : ¬ (1 ≤ cfg.regNoop.toNat ∧ cfg.regNoop.toNat ≤ 8) := by
  have hnibble := not_digit_of_wf hw (n := lowNibble cfg.regNoop) (by simp [Config.regNibbles])
  simp only [lowNibble, BitVec.extractLsb'_toNat] at hnibble
  omega

@[simp] theorem length_flushPlan (cfg : Config) (fb sb : Buffer) :
    (flushPlan cfg fb sb).length = framesNeeded fb sb := by
  rw [flushPlan, List.length_map, List.length_range]

/-- The digit words that a FLUSH sends to a chip are as many as its differing rows. -/
theorem countP_digit_plannedWords {cfg : Config} (hw : cfg.wf = true) (fb sb : Buffer) (c : ChipIdx) :
    ((flushPlan cfg fb sb).map (· c)).countP (fun w => decide (1 ≤ w.1.toNat ∧ w.1.toNat ≤ 8)) =
      (diffRows fb sb c).length := by
  rw [flushPlan, plannedWords_eq cfg fb sb c (diffRows_length_le fb sb c), List.countP_append, List.countP_map,
    List.countP_replicate]
  simp [regNoop_not_digit hw, Function.comp_def, digitReg_range]

/-- The no-operation words that a FLUSH sends to a chip fill its frames up. -/
theorem count_noop_plannedWords {cfg : Config} (hw : cfg.wf = true) (fb sb : Buffer) (c : ChipIdx) :
    ((flushPlan cfg fb sb).map (· c)).count (cfg.regNoop, cfg.noopVal) =
      framesNeeded fb sb - (diffRows fb sb c).length := by
  have hdigit : (cfg.regNoop, cfg.noopVal) ∉ (diffRows fb sb c).map fun k => (digitReg k, Buffer.read fb c k) := by
    intro hmem
    obtain ⟨k, -, hk⟩ := List.mem_map.mp hmem
    have hreg : digitReg k = cfg.regNoop := (Prod.ext_iff.mp hk).1
    exact regNoop_not_digit hw (hreg ▸ digitReg_range k)
  rw [flushPlan, plannedWords_eq cfg fb sb c (diffRows_length_le fb sb c), List.count_append,
    List.count_eq_zero_of_not_mem hdigit, List.count_replicate_self, Nat.zero_add]

/-- The digit words and the no-operation words of a FLUSH are all its words, four a frame (`42_flush.md` R127). -/
theorem sum_noopCounts (fb sb : Buffer) :
    (chipIdxs.map fun c => framesNeeded fb sb - (diffRows fb sb c).length).sum =
      4 * framesNeeded fb sb - (chipIdxs.map fun c => (diffRows fb sb c).length).sum := by
  have hle := diffRows_length_le fb sb
  have h0 := hle 0
  have h1 := hle 1
  have h2 := hle 2
  have h3 := hle 3
  simp only [chipIdxs, List.map_cons, List.map_nil, List.sum_cons, List.sum_nil]
  omega

/-! ### No fewer frames -/

/-- A word that the bus may carry writes at most one digit register of the chip that receives it (`30_encoding.md` R87,
`60_exceptions.md` R192). -/
theorem receive_dig_of_allowed {cfg : Config} (hw : cfg.wf = true) {w : Byte × Byte} (h : BusWordAllowed cfg w) (ch : Chip) :
    ∃ d : DigitIdx, ∀ j, j ≠ d → (ch.receive cfg w).dig.get j = ch.dig.get j := by
  obtain ⟨r, v⟩ := w
  rcases h with h | ⟨hlow, hhigh⟩ | h | ⟨h, -⟩ | h | h | h | h
  case inr.inl =>
    have hd : r.toNat - 1 < 8 := Nat.lt_of_lt_of_le (Nat.sub_lt hlow Nat.one_pos) hhigh
    refine ⟨⟨r.toNat - 1, hd⟩, fun j hj => ?_⟩
    have hne : r.toNat - 1 ≠ j.val := fun he => hj (Fin.ext he.symm)
    rw [Chip.receive, latch_digit cfg ch r v ⟨hlow, hhigh⟩]
    simp [Vector.get_eq_getElem, hne]
  all_goals
    cases h
    refine ⟨0, fun j _ => ?_⟩
    simp only [Chip.receive, latch_noop hw, latch_decode hw, latch_intensity hw, latch_scanlimit hw, latch_shutdown hw,
      latch_test hw, Chip.withSr_dig]

/-- A run of words that the bus may carry writes at most as many digit registers of a chip as it has words. -/
theorem receive_run_dig {cfg : Config} (hw : cfg.wf = true) {ws : List (Byte × Byte)}
    (h : ∀ w ∈ ws, BusWordAllowed cfg w) (ch : Chip) :
    ∃ touched : List DigitIdx, touched.length = ws.length ∧
      ∀ j, j ∉ touched → (ws.foldl (Chip.receive cfg) ch).dig.get j = ch.dig.get j := by
  induction ws generalizing ch with
  | nil => exact ⟨[], rfl, fun _ _ => rfl⟩
  | cons w ws ih =>
    obtain ⟨hword, hwords⟩ := List.forall_mem_cons.mp h
    obtain ⟨d, hd⟩ := receive_dig_of_allowed hw hword ch
    obtain ⟨touched, hlen, hrest⟩ := ih hwords (ch.receive cfg w)
    refine ⟨d :: touched, congrArg Nat.succ hlen, fun j hj => ?_⟩
    obtain ⟨hjd, hjt⟩ := not_or.mp (mt List.mem_cons.mpr hj)
    exact (hrest j hjt).trans (hd j hjd)

/-- Frames that take a chip from SB to FB are at least as many as its differing rows. -/
theorem diffRows_length_le_of_reconciles {cfg : Config} (hw : cfg.wf = true) {fb sb : Buffer} {ch : Chain}
    {ws : List FrameWords} (c : ChipIdx) (hwords : ∀ w ∈ ws, BusWordAllowed cfg (w c))
    (hbefore : ∀ d, (ch.get c).dig.get d = Buffer.read sb c d)
    (hafter : ∀ d, ((ch.onEvents cfg (framesEvents ws)).get c).dig.get d = Buffer.read fb c d) :
    (diffRows fb sb c).length ≤ ws.length := by
  obtain ⟨touched, hlen, hkept⟩ := receive_run_dig hw (List.forall_mem_map.mpr hwords) (ch.get c)
  have hsub : diffRows fb sb c ⊆ touched := by
    intro d hd
    by_contra hnot
    refine (mem_diffRows fb sb c d).mp hd ?_
    rw [← hafter d, onEvents_framesEvents_get, hkept d hnot, hbefore d]
  have hnodup : (diffRows fb sb c).Nodup := (diffRows_sorted fb sb c).imp ne_of_lt
  calc (diffRows fb sb c).length ≤ touched.length := (List.subperm_of_subset hnodup hsub).length_le
    _ = ws.length := by rw [hlen, List.length_map]

/-- The frames needed are within a bound when every chip's differing rows are (`42_flush.md` R127). -/
theorem framesNeeded_le_of_forall {fb sb : Buffer} {n : Nat} (h : ∀ c, (diffRows fb sb c).length ≤ n) :
    framesNeeded fb sb ≤ n :=
  max_le (max_le (h 0) (h 1)) (max_le (h 2) (h 3))

/-! ### The statement -/

/-- Settles O22: the counts are those of the planned frames; no word writes two rows, so no fewer frames do. -/
theorem flushFrameCountIsMinimum : Obligations.FlushFrameCountIsMinimum := by
  intro s
  refine ⟨⟨_, flushPlan Config.actual s.fb s.sb, exec_flush s, flush_trace _ s, length_flushPlan _ _ _,
    framesNeeded_le _ _, ?bits, ?low, ?high, ?digits, ?noops⟩, fun c ws hwords hbefore hafter => ?minimal⟩
  case bits => rw [countP_framesEvents countP_bit_frameEvents, length_flushPlan]
  case low =>
    rw [List.count, countP_framesEvents fun w => (count_strobe_frameEvents w).1, length_flushPlan, Nat.one_mul]
  case high =>
    rw [List.count, countP_framesEvents fun w => (count_strobe_frameEvents w).2, length_flushPlan, Nat.one_mul]
  case digits =>
    rw [countP_words]
    simp only [countP_digit_plannedWords actual_wf]
  case noops =>
    rw [List.count, countP_words, ← sum_noopCounts]
    exact congrArg List.sum (List.map_congr_left fun c _ => count_noop_plannedWords actual_wf s.fb s.sb c)
  case minimal =>
    exact framesNeeded_le_of_forall fun k =>
      diffRows_length_le_of_reconciles actual_wf k (fun w hw => hwords w hw k) (hbefore k) (hafter k)

end Sys2Proof.Machine
end

section
/-! PROOFS. SETDIG (`43_glyph.md`): its operand check in and out of contract, its next state in each, and the picture that a
drawn digit determines. -/

namespace Sys2Proof.Machine

/-! ### The operand check and the next state -/

/-- The operands of a cell that fits and of a digit 0..9 pass the check as that cell and that digit (`43_glyph.md` R143). -/
theorem setdigOperands_of_val_eq {x y : Coord} {d : Fin 16} {p : CellPos} {v : Fin 10} (hx : p.x.val = x.val)
    (hy : p.y.val = y.val) (hd : v.val = d.val) : setdigOperands x y d = .ok (p, v) := by
  have hdigit : d.val ≤ 9 := by omega
  have hcell : x.val ≤ 13 ∧ y.val ≤ 11 := by omega
  rw [setdigOperands, dif_pos hdigit, dif_pos hcell]
  simp only [← hx, ← hy, ← hd]

/-- The digit value is checked first (`30_encoding.md` R85 (3)). -/
theorem setdigOperands_of_digit_gt (x y : Coord) {d : Fin 16} (hd : 9 < d.val) :
    setdigOperands x y d = .error .digitValue :=
  dif_neg (Nat.not_le.mpr hd)

/-- With the digit in range, a cell over either edge is refused (`30_encoding.md` R85 (4)). -/
theorem setdigOperands_of_cell_outside {x y : Coord} {d : Fin 16} (hd : d.val ≤ 9) (hcell : 13 < x.val ∨ 11 < y.val) :
    setdigOperands x y d = .error .cellRange := by
  have hout : ¬ (x.val ≤ 13 ∧ y.val ≤ 11) := by omega
  rw [setdigOperands, dif_pos hd, dif_neg hout]

/-- With operands that pass, SETDIG draws the digit and answers 0 (`43_glyph.md` R143). -/
theorem setdig_of_ok (cfg : Config) {x y : Coord} {d : Fin 16} {p : CellPos} {v : Fin 10}
    (h : setdigOperands x y d = .ok (p, v)) (s : State) :
    setdig cfg x y d s = { s with fb := drawDigit cfg s.fb p v, response := some 0 } := by
  rw [setdig, h]
  rfl

/-- With operands that do not pass, SETDIG takes the fault of the check (`43_glyph.md` R144). -/
theorem setdig_of_error (cfg : Config) {x y : Coord} {d : Fin 16} {r : FaultReason}
    (h : setdigOperands x y d = .error r) (s : State) :
    setdig cfg x y d s = { s with fault := true, faultReason := some r, response := some 3 } := by
  rw [setdig, h]
  exact raiseFault_eq r s

theorem exec_setdig (x y : Coord) (d : Fin 16) (s : State) :
    exec (.setdig x y d) s = .next (setdig Config.actual x y d s) := exec_eq_execOn (.setdig x y d) s

/-! ### The picture of a drawn digit -/

/-- `DigitDrawn` as a value for every pixel: the glyph's in the cell, the old one outside it (`43_glyph.md` R145). -/
theorem digitDrawn_iff {cfg : Config} {p : CellPos} {d : Fin 10} {before after : Buffer} :
    DigitDrawn cfg p d before after ↔ ∀ x y : Coord,
      testPx after x y = (offsetIn p x y).elim (testPx before x y) fun o => decide (o ∈ glyphOffsets cfg d) := by
  refine forall_congr' fun x => forall_congr' fun y => ?_
  cases offsetIn p x y with
  | none => rfl
  | some o =>
    have hlit : Lights cfg d o ↔ decide (o ∈ glyphOffsets cfg d) = true :=
      (mem_glyphOffsets cfg d o).symm.trans decide_eq_true_iff.symm
    exact (iff_congr Iff.rfl hlit).trans Bool.eq_iff_iff.symm

/-- A picture that shows the digit drawn is the one that `DrawDigit` leaves. -/
theorem drawDigit_eq_of_digitDrawn {cfg : Config} {p : CellPos} {d : Fin 10} {fb fb' : Buffer}
    (h : DigitDrawn cfg p d fb fb') : drawDigit cfg fb p d = fb' :=
  buffer_ext_pixels fun x y =>
    (digitDrawn_iff.mp (drawDigit_drawn cfg fb p d) x y).trans (digitDrawn_iff.mp h x y).symm

/-! ### The statements -/

/-- Settles O17: in contract SETDIG is `DrawDigit` at the cell, which draws the digit. -/
theorem setdigDrawsDigit : Obligations.SetdigDrawsDigit := by
  intro s x y d p v hx hy hd
  refine ⟨exec_setdig x y d s, fun cfg => ?_⟩
  rw [setdig_of_ok cfg (setdigOperands_of_val_eq hx hy hd)]
  exact ⟨drawDigit_drawn cfg s.fb p v, rfl⟩

/-- Settles O18: the two refusals of the operand check, in its order. -/
theorem setdigOutOfContractFaults : Obligations.SetdigOutOfContractFaults := by
  intro s x y d
  rw [exec_setdig]
  refine ⟨fun hd => ?digitValue, fun hd hcell => ?cellRange⟩
  case digitValue => rw [setdig_of_error _ (setdigOperands_of_digit_gt x y hd)]
  case cellRange => rw [setdig_of_error _ (setdigOperands_of_cell_outside hd hcell)]

/-- Settles O19: the listed rows show the digit's offsets lit and every other pixel dark, and no other picture does. -/
theorem defaultDigitShapes : Obligations.DefaultDigitShapes := by
  intro d
  refine ⟨_, List.getElem?_eq_getElem d.isLt, drawDigit_eq_of_digitDrawn (digitDrawn_iff.mpr ?pixels)⟩
  case pixels =>
    revert d
    decide +kernel

end Sys2Proof.Machine
end

section
/-! PROOFS. The brightness levels and the sensor map (`44_brightness.md` R154, R155, R161): Inc and Dec as arithmetic modulo 17 on
level codes, and the map on readings as a clamped linear function. -/

namespace Sys2Proof.Machine

/-! ### Level codes -/

@[simp] theorem Level.code_auto : Level.auto.code.toNat = 16 := rfl

@[simp] theorem Level.code_manual (n : BitVec 4) : (Level.manual n).code.toNat = n.toNat :=
  BitVec.toNat_setWidth_of_le (by decide)

/-- The seventeen levels have the codes 0..16 (`10_state.md` R30). -/
theorem Level.code_lt (l : Level) : l.code.toNat < 17 := by
  cases l with
  | auto => decide
  | manual n =>
    have hn := n.isLt
    rw [Level.code_manual]
    omega

/-- A level is determined by its code. -/
theorem Level.eq_of_code_eq {l l' : Level} (h : l.code.toNat = l'.code.toNat) : l = l' := by
  cases l with
  | auto =>
    cases l' with
    | auto => rfl
    | manual n =>
      rw [Level.code_auto, Level.code_manual] at h
      have hn := n.isLt
      omega
  | manual m =>
    cases l' with
    | auto =>
      rw [Level.code_auto, Level.code_manual] at h
      have hm := m.isLt
      omega
    | manual n =>
      rw [Level.code_manual, Level.code_manual] at h
      rw [BitVec.eq_of_toNat_eq h]

/-! ### Inc and Dec -/

theorem Level.up_manual_of_le {n : BitVec 4} (h : n.toNat ≤ 14) : Level.up (.manual n) = .manual (n + 1) :=
  if_neg (by omega)

theorem Level.down_manual_of_le {n : BitVec 4} (h : 1 ≤ n.toNat) : Level.down (.manual n) = .manual (n - 1) :=
  if_neg (by omega)

/-- On codes Inc is the successor modulo 17 (`44_brightness.md` R154). -/
theorem Level.code_up (l : Level) : (Level.up l).code.toNat = (l.code.toNat + 1) % 17 := by
  cases l with
  | auto => rfl
  | manual n =>
    by_cases hn : n.toNat = 15
    · rw [Level.up, if_pos hn, Level.code_auto, Level.code_manual, hn]
    · have hlt := n.isLt
      rw [Level.up_manual_of_le (by omega), Level.code_manual, Level.code_manual]
      bv_omega

/-- On codes Dec is the predecessor modulo 17 (`44_brightness.md` R155). -/
theorem Level.code_down (l : Level) : (Level.down l).code.toNat = (l.code.toNat + 16) % 17 := by
  cases l with
  | auto => rfl
  | manual n =>
    by_cases hn : n.toNat = 0
    · rw [Level.down, if_pos hn, Level.code_auto, Level.code_manual, hn]
    · rw [Level.down_manual_of_le (by omega), Level.code_manual, Level.code_manual]
      bv_omega

theorem Level.down_up (l : Level) : Level.down (Level.up l) = l := by
  apply Level.eq_of_code_eq
  have hl := l.code_lt
  rw [Level.code_down, Level.code_up]
  omega

theorem Level.up_down (l : Level) : Level.up (Level.down l) = l := by
  apply Level.eq_of_code_eq
  have hl := l.code_lt
  rw [Level.code_up, Level.code_down]
  omega

/-- On codes k increments add k modulo 17. -/
theorem Level.code_iterate_up (k : Nat) (l : Level) : (Level.up^[k] l).code.toNat = (l.code.toNat + k) % 17 := by
  induction k generalizing l with
  | zero => exact (Nat.mod_eq_of_lt l.code_lt).symm
  | succ k ih =>
    rw [Function.iterate_succ_apply, ih, Level.code_up]
    omega

/-- Settles O25. -/
theorem levelIncrement : Obligations.LevelIncrement :=
  ⟨rfl, rfl, fun _ => Level.up_manual_of_le, Level.code_up⟩

/-- Settles O26: on codes the two are inverse modulo 17, and seventeen increments add 0. -/
theorem levelDecrement : Obligations.LevelDecrement := by
  refine ⟨rfl, rfl, fun _ => Level.down_manual_of_le, Level.code_down, fun l => ⟨l.down_up, l.up_down⟩, ?cycle, rfl⟩
  case cycle =>
    intro l
    apply Level.eq_of_code_eq
    rw [Level.code_iterate_up, Nat.add_mod_right, Nat.mod_eq_of_lt l.code_lt]

/-! ### The sensor map -/

theorem sensorRange_span_ne_zero (r : SensorRange) : r.hi - r.lo ≠ 0 :=
  sub_ne_zero_of_ne (sensorRange_hi_ne_lo r)

theorem sensorMapInt_lo (r : SensorRange) : sensorMapInt r r.lo = 0 := by
  rw [sensorMapInt, sub_self, zero_mul, Int.zero_tdiv]
  rfl

theorem sensorMapInt_hi (r : SensorRange) : sensorMapInt r r.hi = 15 := by
  rw [sensorMapInt, Int.mul_tdiv_cancel_left _ (sensorRange_span_ne_zero r)]
  rfl

/-- Division that truncates toward zero falls in its dividend when the divisor is negative. -/
theorem tdiv_le_tdiv_of_neg {a b c : Int} (hc : c < 0) (hab : a ≤ b) : b.tdiv c ≤ a.tdiv c := by
  have h := Int.tdiv_le_tdiv (neg_pos.mpr hc) hab
  rwa [Int.tdiv_neg, Int.tdiv_neg, neg_le_neg_iff] at h

theorem sensorMapInt_mono {r : SensorRange} (hr : r.lo < r.hi) {a b : Int} (hab : a ≤ b) :
    sensorMapInt r a ≤ sensorMapInt r b := by
  have hquot := Int.tdiv_le_tdiv (c := r.hi - r.lo) (a := (a - r.lo) * 15) (b := (b - r.lo) * 15) (by omega) (by omega)
  exact min_le_min_left 15 (max_le_max_left 0 hquot)

theorem sensorMapInt_anti {r : SensorRange} (hr : r.hi < r.lo) {a b : Int} (hab : a ≤ b) :
    sensorMapInt r b ≤ sensorMapInt r a := by
  have hquot := tdiv_le_tdiv_of_neg (c := r.hi - r.lo) (a := (a - r.lo) * 15) (b := (b - r.lo) * 15) (by omega) (by omega)
  exact min_le_min_left 15 (max_le_max_left 0 hquot)

/-- The four-bit intensity is the one whose number is the clamped integer. -/
theorem sensorMap_eq_of_int (cfg : Config) {q : Nat} {n : BitVec 4}
    (h : sensorMapInt cfg.sensorRange q = n.toNat) : sensorMap cfg q = n := by
  apply BitVec.eq_of_toNat_eq
  have hq := sensorMap_toNat cfg q
  omega

/-- The intensities of two readings are ordered as the clamped integers are. -/
theorem sensorMap_le_of_int (cfg : Config) {p q : Nat}
    (h : sensorMapInt cfg.sensorRange p ≤ sensorMapInt cfg.sensorRange q) :
    (sensorMap cfg p).toNat ≤ (sensorMap cfg q).toNat := by
  have hp := sensorMap_toNat cfg p
  have hq := sensorMap_toNat cfg q
  omega

/-- Settles O31: each clause is that of the map on integers, which loses no bit in four. -/
theorem sensorMapIsLinear : Obligations.SensorMapIsLinear := by
  intro cfg
  refine ⟨sensorMap_toNat cfg, sensorRange_hi_ne_lo cfg.sensorRange, fun r hr => ?lo, fun r hr => ?hi,
    fun r q hrq => ⟨fun hrise => ?rising, fun hfall => ?falling⟩⟩
  case lo => exact sensorMap_eq_of_int cfg (by rw [hr, sensorMapInt_lo]; rfl)
  case hi => exact sensorMap_eq_of_int cfg (by rw [hr, sensorMapInt_hi]; rfl)
  case rising => exact sensorMap_le_of_int cfg (sensorMapInt_mono hrise (Int.ofNat_le.mpr hrq))
  case falling => exact sensorMap_le_of_int cfg (sensorMapInt_anti hfall (Int.ofNat_le.mpr hrq))

end Sys2Proof.Machine
end

section
/-! PROOFS. The adjustment session (`44_brightness.md` R151 to R153, R156, R157): BEGINADJ and STEPADJ in each state of the
session, and the intensity frame of a manual level. -/

namespace Sys2Proof.Machine

/-! ### The intensity frame -/

/-- From `s` to `t` one intensity frame went out, every chip took its value and nothing else but the shift register's, and
the lines are at rest (`44_brightness.md` R156, `60_exceptions.md` R192). -/
def IntensityFrameTaken (cfg : Config) (n : BitVec 4) (s t : State) : Prop :=
  t.trace = s.trace ++ framesEvents [fun _ => (cfg.regIntensity, n.setWidth 8)] ∧
    (∀ c : ChipIdx, t.chain.get c = { s.chain.get c with sr := (t.chain.get c).sr, intensity := n }) ∧
    LinesAtRest t

/-- The intensity broadcast emits events that are such a frame; which events they are, later proofs need not see. -/
theorem broadcast_intensity_emits {cfg : Config} (hw : cfg.wf = true) (n : BitVec 4) (s : State) :
    ∃ es, s.broadcast cfg cfg.regIntensity (zext8 n) = s.emit cfg es ∧ IntensityFrameTaken cfg n s (s.emit cfg es) := by
  refine ⟨broadcastEvents cfg.regIntensity (zext8 n), rfl, ?trace, fun c => ?chip, broadcast_linesAtRest cfg s _ _⟩
  case trace =>
    rw [State.emit_trace, broadcastEvents_eq, zext8]
  case chip =>
    rw [State.emit_chain, intensity_frame_get hw]
    rfl

/-! ### BEGINADJ -/

theorem exec_beginadj (s : State) : exec .beginadj s = .next (beginadj Config.actual s) := exec_eq_execOn .beginadj s

/-- In Idle BEGINADJ opens the session, draws and answers 1 (`44_brightness.md` R152). -/
theorem beginadj_of_idle (cfg : Config) {s : State} (h : s.session = .idle) :
    beginadj cfg s = ((s.setSession .adjusting).setFb (beginPicture cfg s.level s.fb)).respond 1 := by
  simp only [beginadj, h]

/-- While Adjusting BEGINADJ only answers 0 (`44_brightness.md` R157). -/
theorem beginadj_of_adjusting (cfg : Config) {s : State} (h : s.session = .adjusting) :
    beginadj cfg s = s.respond 0 := by
  simp only [beginadj, h]

/-- The opening picture: the markers set, then a manual level shown on them (`44_brightness.md` R152). -/
theorem beginPicture_shown (cfg : Config) (l : Level) (fb : Buffer) :
    ∃ mid : Buffer, MarkersSet cfg fb mid ∧
      ((l = .auto ∧ beginPicture cfg l fb = mid) ∨ (l ≠ .auto ∧ LevelShown cfg l mid (beginPicture cfg l fb))) := by
  refine ⟨drawMarkers cfg fb, drawMarkers_set cfg fb, ?_⟩
  cases l with
  | auto => exact .inl ⟨rfl, rfl⟩
  | manual n => exact .inr ⟨Level.noConfusion, renderLevel_shown cfg (.manual n) (drawMarkers cfg fb)⟩

/-- Settles O27, by the state of the session. -/
theorem beginadjOpensSession : Obligations.BeginadjOpensSession := by
  intro s
  rw [exec_beginadj]
  refine ⟨fun hidle => ?idle, fun hadj => ?adjusting⟩
  case idle =>
    rw [beginadj_of_idle _ hidle]
    exact ⟨_, rfl, beginPicture_shown Config.actual s.level s.fb, rfl⟩
  case adjusting =>
    rw [beginadj_of_adjusting _ hadj]
    rfl

/-! ### STEPADJ -/

theorem exec_stepadj (ev : Event) (s : State) : exec (.stepadj ev) s = .next (stepadj Config.actual ev s) :=
  exec_eq_execOn (.stepadj ev) s

/-- In Idle every event is ignored (`44_brightness.md` R157). -/
theorem stepadj_of_idle (cfg : Config) (ev : Event) {s : State} (h : s.session = .idle) :
    stepadj cfg ev s = s.respond 0 := by
  simp only [stepadj, h]

theorem stepadj_none (cfg : Config) {s : State} (h : s.session = .adjusting) :
    stepadj cfg .none s = s.respond 0 := by
  simp only [stepadj, h]

/-- Confirm ends the session (`44_brightness.md` R153). -/
theorem stepadj_confirm (cfg : Config) {s : State} (h : s.session = .adjusting) :
    stepadj cfg .confirm s = (s.setSession .idle).respond 2 := by
  simp only [stepadj, h, sessionAfter]

/-- Increment and decrement adjust to the next level in their direction (`44_brightness.md` R153). -/
theorem stepadj_adjust (cfg : Config) {ev : Event} (hev : ev = .inc ∨ ev = .dec) {s : State} (h : s.session = .adjusting) :
    stepadj cfg ev s = adjustTo cfg (if ev = .inc then Level.up s.level else Level.down s.level) s := by
  rcases hev with rfl | rfl
  · simp only [stepadj, h, if_true]
  · simp only [stepadj, h, reduceCtorEq, if_false]

/-- An adjustment leaves the level it leads to. -/
@[simp] theorem adjustTo_level (cfg : Config) (l : Level) (s : State) : (adjustTo cfg l s).level = l := by
  obtain ⟨es, b, h⟩ := adjustTo_emits cfg l s
  rw [h]
  rfl

/-- An adjustment draws the level on the picture that stood before. -/
theorem adjustTo_fb (cfg : Config) (l : Level) (s : State) : (adjustTo cfg l s).fb = renderLevel cfg l s.fb := by
  obtain ⟨es, h⟩ := pushLevel_emits cfg l (s.setLevel l)
  rw [adjustTo, h]
  rfl

/-- An adjustment leaves everything but LEVEL, FB, the bus and the response. -/
theorem adjustTo_frame (cfg : Config) (l : Level) (s : State) :
    adjustTo cfg l s =
      { s with level := l, fb := (adjustTo cfg l s).fb, trace := (adjustTo cfg l s).trace,
               chain := (adjustTo cfg l s).chain, wires := (adjustTo cfg l s).wires,
               freeCtr := (adjustTo cfg l s).freeCtr, response := some 1 } := by
  obtain ⟨es, b, h⟩ := adjustTo_emits cfg l s
  rw [h]
  rfl

/-- With MANUAL_PUSH an adjustment to a manual level sends its intensity frame (`44_brightness.md` R156). -/
theorem adjustTo_intensityFrameTaken {cfg : Config} (hw : cfg.wf = true) (hpush : cfg.manualPush = true) (n : BitVec 4)
    (s : State) : IntensityFrameTaken cfg n s (adjustTo cfg (.manual n) s) := by
  obtain ⟨es, hsent, hframe⟩ := broadcast_intensity_emits hw n (s.setLevel (.manual n))
  rw [adjustTo_manual hpush, hsent]
  exact hframe

/-- Settles O28, row by row; the two rows that adjust are one, by the level they lead to. -/
theorem stepadjTransitions : Obligations.StepadjTransitions := by
  intro s
  refine ⟨fun hidle ev => ?idle, fun hadj => ⟨?none, ?confirm, fun ev hev => ?adjust⟩⟩
  case idle =>
    rw [exec_stepadj, stepadj_of_idle _ ev hidle]
    rfl
  case none =>
    rw [exec_stepadj, stepadj_none _ hadj]
    rfl
  case confirm =>
    rw [exec_stepadj, stepadj_confirm _ hadj]
    rfl
  case adjust =>
    rw [exec_stepadj, stepadj_adjust _ hev hadj]
    generalize (if ev = .inc then Level.up s.level else Level.down s.level) = l
    refine ⟨_, rfl, adjustTo_level _ l s, ?shown, fun hauto => ?auto, fun n hn => ?manual, ?frame⟩
    case shown =>
      rw [adjustTo_level, adjustTo_fb]
      exact renderLevel_shown Config.actual l s.fb
    case auto =>
      rw [adjustTo_level] at hauto
      rw [hauto, adjustTo_auto]
      simp
    case manual =>
      rw [adjustTo_level] at hn
      rw [hn]
      exact adjustTo_intensityFrameTaken actual_wf actual_manualPush n s
    case frame =>
      rw [adjustTo_level]
      exact adjustTo_frame Config.actual l s

/-! ### Without MANUAL_PUSH -/

/-- Without MANUAL_PUSH an adjustment to a manual level only draws the digits (`44_brightness.md` R156). -/
theorem adjustTo_manual_of_not_push {cfg : Config} (h : cfg.manualPush = false) (n : BitVec 4) (s : State) :
    adjustTo cfg (.manual n) s =
      ((s.setLevel (.manual n)).setFb (renderLevel cfg (.manual n) s.fb)).respond 1 := by
  simp [adjustTo, pushLevel, h]

/-- The drawing does not read MANUAL_PUSH. -/
theorem renderLevel_manualPush (cfg : Config) (b : Bool) (l : Level) (fb : Buffer) :
    renderLevel { cfg with manualPush := b } l fb = renderLevel cfg l fb := rfl

/-- MANUAL_PUSH decides of an adjustment only whether the bus is used. -/
theorem adjustTo_of_not_push {cfg : Config} (h : cfg.manualPush = false) (l : Level) (s : State) :
    adjustTo cfg l s =
      { adjustTo { cfg with manualPush := true } l s with
          trace := s.trace, chain := s.chain, wires := s.wires, freeCtr := s.freeCtr } := by
  cases l with
  | auto =>
    rw [adjustTo_auto, adjustTo_auto, renderLevel_manualPush cfg true]
    generalize renderLevel cfg .auto s.fb = b
    rfl
  | manual n =>
    rw [adjustTo_manual_of_not_push h, adjustTo_manual rfl, renderLevel_manualPush cfg true]
    generalize renderLevel cfg (.manual n) s.fb = b
    rfl

/-- Settles O29: only the rows that adjust read MANUAL_PUSH. -/
theorem stepadjWithoutPush : Obligations.StepadjWithoutPush := by
  intro cfg ev s hpush
  cases hs : s.session with
  | idle =>
    rw [stepadj_of_idle _ ev hs, stepadj_of_idle _ ev hs]
    rfl
  | adjusting =>
    cases ev with
    | none =>
      rw [stepadj_none _ hs, stepadj_none _ hs]
      rfl
    | confirm =>
      rw [stepadj_confirm _ hs, stepadj_confirm _ hs]
      rfl
    | inc | dec =>
      rw [stepadj_adjust _ (by decide) hs, stepadj_adjust _ (by decide) hs]
      exact adjustTo_of_not_push hpush _ s

end Sys2Proof.Machine
end

section
/-! PROOFS. Automatic mode (`44_brightness.md` R160 to R163): when a poll is due, what it does then, and the hysteresis that
follows from what an updating poll records. -/

namespace Sys2Proof.Machine

/-! ### The poll -/

theorem exec_pollauto (s : State) : exec .pollauto s = .next (pollauto Config.actual s) := exec_eq_execOn .pollauto s

/-- The update test is true exactly when a poll is due: its natural numbers are the integers of R160 and R162. -/
theorem autoUpdates_iff_pollDue (cfg : Config) (s : State) : autoUpdates cfg s = true ↔ PollDue cfg s := by
  rw [autoUpdates_iff, PollDue, ← Int.ofNat_le, ← Int.ofNat_lt, elapsed_cast, readingChange_cast]
  rfl

/-- A poll that is due sends the mapped reading and records reading and time (`44_brightness.md` R160). -/
theorem pollauto_of_due {cfg : Config} {s : State} (h : PollDue cfg s) :
    pollauto cfg s =
      ((s.broadcast cfg cfg.regIntensity (zext8 (sensorMap cfg (s.readingNow cfg)))).recordAuto
        (s.readingNow cfg) (s.tickNow cfg)).respond 0 := by
  rw [pollauto, if_pos ((autoUpdates_iff_pollDue cfg s).mpr h)]

/-- A poll that is not due only answers (`44_brightness.md` R160). -/
theorem pollauto_of_not_due {cfg : Config} {s : State} (h : ¬ PollDue cfg s) :
    pollauto cfg s = { s with response := some 0 } := by
  rw [pollauto, if_neg (mt (autoUpdates_iff_pollDue cfg s).mp h)]
  rfl

theorem pollauto_effect {cfg : Config} (hw : cfg.wf = true) (s : State) : PollEffect cfg s (pollauto cfg s) := by
  refine ⟨fun hdue => ?due, pollauto_of_not_due⟩
  case due =>
    obtain ⟨es, hsent, htrace, hchips, hlines⟩ := broadcast_intensity_emits hw (sensorMap cfg (s.readingNow cfg)) s
    rw [pollauto_of_due hdue, hsent]
    exact ⟨htrace, hchips, hlines, rfl⟩

/-- Settles O30: the machine's own configuration is one of the well-formed ones. -/
theorem pollautoUpdates : Obligations.PollautoUpdates :=
  ⟨fun s => ⟨_, exec_pollauto s, rfl, pollauto_effect actual_wf s⟩, fun _ s hw => pollauto_effect hw s⟩

/-! ### Hysteresis -/

/-- What an updating poll leaves on record, and on the bus. -/
theorem pollauto_records {cfg : Config} {s : State} (h : PollDue cfg s) :
    (pollauto cfg s).trace = s.trace ++ framesEvents
        [fun _ => (cfg.regIntensity, (sensorMap cfg (s.readingNow cfg)).setWidth 8)] ∧
      (pollauto cfg s).lastReading = s.readingNow cfg ∧ (pollauto cfg s).lastUpdate = s.tickNow cfg := by
  rw [pollauto_of_due h, ← broadcastEvents_eq]
  exact ⟨rfl, rfl, rfl⟩

/-- In automatic mode, with the record of an updating poll, the next poll is due exactly when it is the interval later and
beyond the threshold from that one (`44_brightness.md` R163). -/
theorem pollDue_after_update {cfg : Config} {s later : State} (hdue : PollDue cfg s) (hauto : later.level = .auto)
    (hreading : later.lastReading = (pollauto cfg s).lastReading)
    (hupdate : later.lastUpdate = (pollauto cfg s).lastUpdate) :
    PollDue cfg later ↔
      (cfg.autoInterval : Int) ≤ ((later.tickNow cfg : Int) - s.tickNow cfg) % (2 ^ cfg.tickW : Nat) ∧
        (cfg.autoThreshold : Int) < |(later.readingNow cfg : Int) - s.readingNow cfg| := by
  obtain ⟨-, hr, ht⟩ := pollauto_records hdue
  rw [PollDue, hreading, hr, hupdate, ht]
  exact and_iff_right hauto

/-- Settles O32: a later poll within the threshold or before the interval is not due, one past both is. -/
theorem automaticHysteresis : Obligations.AutomaticHysteresis := by
  refine ⟨exec_pollauto, fun cfg s later hdue hauto hreading hupdate => ?_⟩
  have hlater := pollDue_after_update hdue hauto hreading hupdate
  refine ⟨fun hsmall => ?within, fun hearly => ?early, fun hbeyond hpassed => ?beyond⟩
  case within => exact pollauto_of_not_due fun h => not_lt.mpr hsmall (hlater.mp h).2
  case early => exact pollauto_of_not_due fun h => not_le.mpr hearly (hlater.mp h).1
  case beyond => exact pollauto_records (hlater.mpr ⟨hpassed, hbeyond⟩)

end Sys2Proof.Machine
end

section
/-! PROOFS. The debug commands (`45_system.md`): SETTEST is one broadcast frame to the test register (R171), DUMP only answers
(R172). -/

namespace Sys2Proof.Machine

/-! ### The next state of each command -/

theorem exec_settest (b : Bool) (s : State) : exec (.settest b) s = .next (settest Config.actual b s) :=
  exec_eq_execOn (.settest b) s

theorem exec_dump (s : State) : exec .dump s = .next (s.respond 0) := exec_eq_execOn .dump s

/-! ### The test frame -/

/-- Every chip takes a broadcast test word: its test register holds the value, its shift register the word, and nothing else
changes (`20_memory.md` R62, `60_exceptions.md` R194). -/
theorem broadcast_test_get {cfg : Config} (hw : cfg.wf = true) (s : State) (v : Byte) (c : ChipIdx) :
    (s.broadcast cfg cfg.regTest v).chain.get c = { (s.chain.get c).withSr (cfg.regTest ++ v) with test := v } := by
  rw [State.broadcast_chain, onEvents_broadcast_get, Chip.receive, latch_test hw]

/-! ### The statements -/

/-- Settles O33: the frame, what each chip takes of it, the lines after it, and the rest of the block. -/
theorem settestWritesTestRegister : Obligations.SettestWritesTestRegister := by
  intro s b
  refine ⟨settest Config.actual b s, exec_settest b s, ?trace, fun c => ?chip, ?lines, ?frame⟩
  all_goals
    rw [settest]
    generalize (if b then Config.actual.testOnVal else Config.actual.testOffVal) = v
  case trace => rw [State.respond_trace, State.broadcast_trace, broadcastEvents_eq]
  case chip =>
    rw [State.respond_chain, broadcast_test_get actual_wf]
    rfl
  case lines => exact broadcast_linesAtRest Config.actual s Config.actual.regTest v
  case frame => rfl

/-- Settles O34: answering writes no register but the response. -/
theorem dumpChangesNothing : Obligations.DumpChangesNothing := by
  intro s
  rw [exec_dump]
  rfl

end Sys2Proof.Machine
end

section
/-! PROOFS. Faults (`60_exceptions.md` R183, R184; `30_encoding.md` R85): the step that takes one, and the block that holds
still from then on until `rst`. -/

namespace Sys2Proof.Machine

/-! ### Taking the fault -/

/-- Settles O6: the word is accepted, and `raiseFault` is the whole effect of refusing it. -/
theorem stepFaultsOnBadWord : Obligations.StepFaultsOnBadWord := by
  intro s r hrst hvalid ⟨hphase, hfault⟩ hdec
  have haccepted : s.accepted = some s.pins.cmd :=
    (accepted_eq_some_iff s _).mpr ⟨hrst, hvalid, hphase, hfault, rfl⟩
  rw [step, turn_error _ _ haccepted hdec, raiseFault_eq]

/-! ### The faulted block -/

/-- The host does not drive `rst`, now or in any later step (a plan that has ended leaves it low, log 2). -/
def State.RstStaysLow (s : State) : Prop := s.pins.rst = false ∧ ∀ p ∈ s.hostPlan, p.rst = false

/-- Boot is done and FAULT = 1, and no `rst` is to come. -/
def Halted (s : State) : Prop := s.phase = .run ∧ s.fault = true ∧ s.RstStaysLow

/-- A host that does not drive `rst` goes on so: its turn leaves `rst` low now and later. -/
theorem hostTurn_rstStaysLow {s : State} (h : s.RstStaysLow) : (hostTurn s).RstStaysLow := by
  obtain ⟨-, hplan⟩ := h
  rw [hostTurn_eq]
  cases hl : s.hostPlan with
  | nil => exact ⟨rfl, fun p hp => absurd hp List.not_mem_nil⟩
  | cons p rest =>
    rw [hl] at hplan
    exact ⟨hplan p List.mem_cons_self, fun q hq => hplan q (List.mem_cons_of_mem p hq)⟩

/-- A faulted block accepts no word (`60_exceptions.md` R183). -/
theorem accepted_of_fault {s : State} (h : s.fault = true) : s.accepted = none := by
  simp [State.accepted, State.cmdReady, h]

/-- A step of a halted block withdraws the response, then the host has its turn, and the block is halted still. -/
theorem step_of_halted {s : State} (h : Halted s) :
    step s = .next (hostTurn (s.setResponse none)) ∧ Halted (hostTurn (s.setResponse none)) := by
  obtain ⟨hphase, hfault, hlow⟩ := h
  constructor
  · rw [step, turn_none _ _ (accepted_of_fault hfault), blockIdle_run _ hlow.1 hphase]
  · have hlow' : (hostTurn (s.setResponse none)).RstStaysLow := hostTurn_rstStaysLow hlow
    obtain ⟨p, l, hhost⟩ := hostTurn_eq_setHost (s.setResponse none)
    rw [hhost] at hlow' ⊢
    exact ⟨hphase, hfault, hlow'⟩

/-- A run goes on from the state its first step leads to. -/
theorem run_succ_of_step {s s' : State} (h : step s = .next s') (k : Nat) :
    Host.Core.run core (k + 1) s = Host.Core.run core k s' := by
  have hcore : core.step s = .next s' := h
  simp only [Host.Core.run, hcore]

/-- However long it runs, a halted block only loses its response, while the host moves on. -/
theorem run_of_halted (k : Nat) {s : State} (h : Halted s) : ∃ (p : HostPins) (l : List HostPins),
    Host.Core.run core k s = .next ((s.setResponse (if k = 0 then s.response else none)).setHost p l) := by
  induction k generalizing s with
  | zero => exact ⟨s.pins, s.hostPlan, rfl⟩
  | succ k ih =>
    obtain ⟨hstep, hhalted⟩ := step_of_halted h
    obtain ⟨p, l, hhost⟩ := hostTurn_eq_setHost (s.setResponse none)
    rw [hhost] at hstep hhalted
    obtain ⟨p', l', hrun⟩ := ih hhalted
    refine ⟨p', l', ?_⟩
    rw [run_succ_of_step hstep, hrun, State.setHost_response, State.setResponse_response, ite_self,
      if_neg k.succ_ne_zero]
    rfl

/-- Settles O8: every run of a halted block writes no field but the response and the host's two. -/
theorem faultHaltsUntilReset : Obligations.FaultHaltsUntilReset := by
  intro k s hphase hfault hrst hplan
  obtain ⟨p, l, hrun⟩ := run_of_halted k ⟨hphase, hfault, hrst, hplan⟩
  refine ⟨_, hrun, rfl, fun hk => ?response, ?ready⟩
  case response => exact if_neg hk.ne'
  case ready => simp [State.cmdReady, hfault]

end Sys2Proof.Machine
end

section
/-! PROOFS. The device model of the chain (`60_exceptions.md` R192 to R194): four shift registers that are one, and the write
that each kind of word performs. -/

namespace Sys2Proof.Machine

/-! ### One shift register -/

/-- Two registers in a row shift as one: the low one takes the bit, the high one takes the top bit of the low one. -/
theorem shiftConcat_append {m n : Nat} (x : BitVec m) (y : BitVec (n + 1)) (b : Bool) :
    (x ++ y).shiftConcat b = x.shiftConcat (y.getLsbD n) ++ y.shiftConcat b := by
  apply BitVec.eq_of_getLsbD_eq
  intro i hi
  simp only [BitVec.getLsbD_shiftConcat, BitVec.getLsbD_append]
  obtain hlow | rfl | hhigh := lt_trichotomy i (n + 1)
  · have hprev : i - 1 < n + 1 := by omega
    simp [hlow, hprev, hi]
  · have hm : 0 < m := by omega
    simp [hm]
  · have hprev : ¬ i - 1 < n + 1 := by omega
    have hpos : ¬ i - (n + 1) = 0 := by omega
    have hfit : i - (n + 1) < m := by omega
    have hne : ¬ i = 0 := by omega
    simp only [hi, hne, hprev, hpos, hfit, hhigh.not_gt, if_false, Nat.sub_right_comm]

/-- A bit writes no register of a chip but its shift register. -/
theorem onBit_get_frame (c : Chain) (b : Bool) (k : ChipIdx) :
    (c.onBit b).get k = (c.get k).withSr ((c.onBit b).get k).sr := by
  fin_cases k <;> rfl

/-- Settles O40: each chip is fed the top bit of the one before it, so that the four shift as one. -/
theorem chainShiftsAsOneRegister : Obligations.ChainShiftsAsOneRegister := by
  refine fun cfg c b => ⟨?shift, onBit_get_frame c b⟩
  case shift =>
    change _ ++ _ ++ _ ++ _ = BitVec.shiftConcat (_ ++ _ ++ _ ++ _) b
    rw [shiftConcat_append, shiftConcat_append, shiftConcat_append]
    rfl

/-! ### Delivery -/

/-- A frame gives every chip its own word. -/
theorem onEvents_frame_receive (cfg : Config) (c : Chain) (w : FrameWords) (k : ChipIdx) :
    (c.onEvents cfg (frameEvents w)).get k = (c.get k).receive cfg (w k) := onEvents_frame_get cfg c w k

/-- Settles O41: a chip receives its own word, and there is one rule for each kind of word. -/
theorem frameDelivers : Obligations.FrameDelivers := by
  intro cfg c w k v hw
  simp only [onEvents_frame_receive]
  generalize c.get k = ch
  generalize w k = word
  refine ⟨latch_sr cfg _, ?digit, ?decode, ?intensity, ?scanLimit, ?shutdown, ?test, ?noop⟩
  case digit => rintro d rfl; exact receive_digit cfg ch d v
  case decode => rintro rfl; exact latch_decode hw ch v
  case intensity => rintro rfl; exact latch_intensity hw ch v
  case scanLimit => rintro rfl; exact latch_scanlimit hw ch v
  case shutdown => rintro rfl; exact latch_shutdown hw ch v
  case test => rintro rfl; exact latch_test hw ch v
  case noop => rintro rfl; exact latch_noop hw ch v

end Sys2Proof.Machine
end

section
/-! PROOFS. Reset by the `rst` input and boot (`70_reset_and_hazards.md` R210, R212; `10_state.md` R38, R39): the two turns of
the block in which no word can be accepted. -/

namespace Sys2Proof.Machine

/-! ### The turns that accept no word -/

/-- Under `rst` no word is accepted, presented or not (log 17). -/
theorem accepted_of_rst {s : State} (h : s.pins.rst = true) : s.accepted = none := by
  simp [State.accepted, h]

/-- Before boot is done no word is accepted (`10_state.md` R26). -/
theorem accepted_of_boot {s : State} (h : s.phase = .boot) : s.accepted = none := by
  simp [State.accepted, State.cmdReady, h]

/-- A step under `rst` resets the block. -/
theorem step_of_rst {s : State} (h : s.pins.rst = true) : step s = .next (hostTurn (blockReset Config.actual s)) := by
  rw [step, turn_none _ _ (accepted_of_rst h), blockIdle_reset _ h]

/-- A step in phase Boot boots, and withdraws the response. -/
theorem step_of_boot {s : State} (hphase : s.phase = .boot) (hrst : s.pins.rst = false) :
    step s = .next (hostTurn (boot Config.actual (s.setResponse none))) := by
  rw [step, turn_none _ _ (accepted_of_boot hphase), blockIdle_boot _ hrst hphase]

/-! ### Reset -/

/-- Settles O10: the reset of the block, read off field by field. -/
theorem resetInputRestoresBlock : Obligations.ResetInputRestoresBlock := fun s hrst =>
  ⟨blockReset Config.actual s, step_of_rst hrst, rfl, fun c d => ⟨read_zeroBuffer c d, read_zeroBuffer c d⟩,
    rfl, rfl, rfl, rfl, rfl, rfl, rfl, rfl, rfl⟩

/-! ### Boot -/

/-- Boot writes PHASE, the bus, and nothing else of the block; the lines end at their reset levels (`10_state.md` R39). -/
theorem boot_frame (cfg : Config) (s : State) :
    boot cfg s = { s with
      phase := .run, wires := idleWires, chain := (boot cfg s).chain, trace := (boot cfg s).trace
      freeCtr := (boot cfg s).freeCtr } := by
  rw [boot_eq]
  generalize framesEvents ((bootWrites cfg).map fun w (_ : ChipIdx) => w) = es
  rfl

/-- Boot appends its frames to the bus trace (`70_reset_and_hazards.md` R212). -/
theorem boot_trace (cfg : Config) (s : State) :
    (boot cfg s).trace = s.trace ++ framesEvents ((bootWrites cfg).map fun w _ => w) := by
  rw [boot_eq, State.setPhase_trace, State.setWires_trace, State.emit_trace]

/-- The control writes of boot, one by one: four settings, the eight digit registers, out of shutdown. -/
theorem bootWrites_eq (cfg : Config) : bootWrites cfg =
    [(cfg.regDecode, cfg.decodeOffVal), (cfg.regIntensity, cfg.defaultIntensity.setWidth 8), (cfg.regScanlimit, 0x07),
      (cfg.regTest, cfg.testOffVal), (1, 0), (2, 0), (3, 0), (4, 0), (5, 0), (6, 0), (7, 0), (8, 0),
      (cfg.regShutdown, cfg.shutdownRunVal)] := rfl

/-- Settles O11: the step is `boot`, whose frames are the control writes and whose chips are those of `boot_chip`. -/
theorem bootConfiguresEveryChip : Obligations.BootConfiguresEveryChip := by
  intro s hphase hrst
  refine ⟨boot Config.actual (s.setResponse none), step_of_boot hphase hrst, ?frame, ?trace, fun c => ?chip⟩
  case frame => exact boot_frame Config.actual (s.setResponse none)
  case trace => rw [boot_trace, bootWrites_eq, State.setResponse_trace]
  case chip =>
    obtain ⟨sr, hchip⟩ := boot_chip actual_wf (s.setResponse none) c
    rw [hchip]
    exact ⟨fun k => Vector.getElem_replicate k.isLt, rfl, rfl, rfl, rfl, rfl⟩

end Sys2Proof.Machine
end

section
/-! PROOFS. The worked encodings of `30_encoding.md` and `95_test_vectors.md` V10 to V12, from the encoder and the rule for words
that are no command. -/

namespace Sys2Proof

/-- The word of a command decodes to that command. -/
theorem decode_of_encode_eq {i : Instr} {w : Word} (h : encode i = w) : decode w = .ok i := h ▸ decode_encode i

/-- Settles O3: six words are the encodings of their commands; 0x1002 has a must-be-zero bit of SETPX set, and op 0xC has no
row. -/
theorem workedWordsDecode : Obligations.WorkedWordsDecode := by
  refine ⟨?setpx, ?setpxLast, ?testpx, ?setdig, ?stepadj, ?settest, ?nonZero, ?reserved⟩
  case nonZero =>
    obtain ⟨-, hnonZero, -, -⟩ := decodeRejectsExactly 0x1002
    exact hnonZero.mpr (.inl ⟨rfl, by decide⟩)
  case reserved =>
    obtain ⟨hreserved, -, -, -⟩ := decodeRejectsExactly 0xC000
    exact hreserved.mpr (.inr (by decide))
  all_goals exact decode_of_encode_eq rfl

end Sys2Proof
end
